-- ==== Sys2Proof/Word.lean ====
section
/-! DEFINITION. The three widths of the block: the Status Byte (`00_scope.md` R6), the Phase and the cycle index (R7). -/

namespace Sys2Proof

/-- A Status Byte, "an 8-bit value": the input word, the output word and the register are each one (R6).
Bit `n` is the binary digit of weight `2^n` (R11). -/
abbrev Byte := BitVec 8

/-- A Phase, "a 2-bit value in {0,1,2,3}" (R7, R50); bit 1 is its high bit. -/
abbrev Phase := BitVec 2

/-- A cycle index, the position 0 to 3 in the Sequence; same format as a phase (R50). -/
abbrev Index := BitVec 2

/-- The field `AX2` = {step flag, direction flag}, the step flag high (`30_encoding.md` R54). -/
abbrev CmdField := BitVec 2

end Sys2Proof
end

