-- ==== Sys2Proof/Config.lean ====
section
/-! DEFINITION. The configuration `SLOTS` (`00_scope.md` R8 to R10, `10_state.md` R26): fixed for a whole run, never written. -/

namespace Sys2Proof

/-- The three axes (R8: "fixed at three"). -/
inductive Axis where
  | x | y | z
deriving DecidableEq, Repr

/-- An Axis Slot, "a pair of bit positions (stepBit, directionBit) within a packed status byte" (R9).
The positions are plain numbers, so that an ill-formed slot can be written down and refused. -/
structure AxisSlot where
  stepBit : Nat
  dirBit : Nat
deriving DecidableEq, Repr

/-- The list of three Axis Slots, as supplied from outside and not yet checked (R9). -/
structure Slots where
  x : AxisSlot
  y : AxisSlot
  z : AxisSlot
deriving DecidableEq, Repr

/-- The slot of an axis: `SLOTS[a]` (R13). -/
def Slots.slot (s : Slots) : Axis → AxisSlot
  | .x => s.x
  | .y => s.y
  | .z => s.z

/-- The six positions of a configuration. -/
def Slots.positions (s : Slots) : List Nat :=
  [s.x.stepBit, s.x.dirBit, s.y.stepBit, s.y.dirBit, s.z.stepBit, s.z.dirBit]

/-- R9: "well-formed when all six positions are integers in 0 to 7 and no two of the six are equal". -/
def Slots.wf (s : Slots) : Bool :=
  s.positions.all (· < 8) && decide s.positions.Nodup

/-- A checked configuration: "a model takes `SLOTS` as an argument together with a proof of well-formedness" (R9, D13). -/
structure Config where
  slots : Slots
  wf : slots.wf = true
deriving DecidableEq, Repr

/-- The slot of an axis under a checked configuration. -/
def Config.slot (c : Config) (a : Axis) : AxisSlot :=
  c.slots.slot a

/-- `SLOTS_REF` (R10): X (2,5), Y (3,6), Z (4,7).
DEDUCED by the spec from the document's fixtures; the names X and Z are PRESUMED (log entry 2). -/
def slotsRef : Slots :=
  { x := { stepBit := 2, dirBit := 5 }
    y := { stepBit := 3, dirBit := 6 }
    z := { stepBit := 4, dirBit := 7 } }

/-- The reference configuration, the one the opcode table's words are written under (R10). -/
def Config.reference : Config :=
  { slots := slotsRef, wf := rfl }

end Sys2Proof
end

