-- ==== Sys2Proof/Syntax.lean ====
section
/-! DEFINITION. The thirteen rows of `spec/opcode_table.json`, one constructor each (`30_encoding.md` R55, R56, R61). -/

namespace Sys2Proof

/-- The three per-axis commands of `30_encoding.md` R55, with the one don't-care bit the encoding has. -/
inductive AxisCmd where
  /-- `AX.IDLE`, step flag 0; `dir` is the direction flag, "ignored" (R57). -/
  | idle (dir : Bool)
  /-- `AX.STEPT`, step flag 1 and direction flag 1. -/
  | stept
  /-- `AX.STEPC`, step flag 1 and direction flag 0. -/
  | stepc
deriving DecidableEq, Repr

/-- One constructor per row of the opcode table.
`convert` carries the whole word (its row has mask 0).
Every other row is a lane of such a word, "not an alternative" to it (R56): its constructor carries the bits the row leaves open.
`rest` holds the word's other six bits at their own positions, with 0 at the two positions of the row's slot (`Instr.wf`);
`dir` is the ignored direction flag of an `IDLE` row.
The `AX` rows are written over the 2-bit field alone (R54), so the axis in whose slot the field stands is an operand (log entry 6). -/
inductive Instr where
  | convert (w : Byte)
  | axIdle (a : Axis) (dir : Bool) (rest : Byte)
  | axStept (a : Axis) (rest : Byte)
  | axStepc (a : Axis) (rest : Byte)
  | xIdle (dir : Bool) (rest : Byte)
  | xStept (rest : Byte)
  | xStepc (rest : Byte)
  | yIdle (dir : Bool) (rest : Byte)
  | yStept (rest : Byte)
  | yStepc (rest : Byte)
  | zIdle (dir : Bool) (rest : Byte)
  | zStept (rest : Byte)
  | zStepc (rest : Byte)
deriving DecidableEq, Repr

end Sys2Proof
end

