-- ==== Sys2Proof/Machine/Flags.lean ====
section
/-! DEFINITION. The only flags of the block: the step flag and the direction flag of each axis in the INPUT word
(`30_encoding.md` R49, R53). There is no status flag, and no operation writes a flag (`10_state.md` R25). -/

namespace Sys2Proof.Machine

/-- `bit(v, n) = (v >> n) & 1` (`00_scope.md` R11), as a `bool` (R12: false is 0, true is 1). -/
def bit {n : Nat} (v : BitVec n) (k : Nat) : Bool :=
  v.getLsbD k

/-- The value of a 1-bit flag as a byte, before it is shifted to its position. -/
def bitByte (b : Bool) : Byte :=
  if b then 1 else 0

/-- `STEP(w, a)` (R53): the bit of the input word at the axis's step position. -/
def stepFlag (c : Config) (w : Byte) (a : Axis) : Bool :=
  bit w (c.slot a).stepBit

/-- `DIR(w, a)` (R53): the bit of the input word at the axis's direction position. -/
def dirFlag (c : Config) (w : Byte) (a : Axis) : Bool :=
  bit w (c.slot a).dirBit

end Sys2Proof.Machine
end

