-- ==== Sys2Proof/Machine/SequenceTable.lean ====
section
/-! DEFINITION. The stepper sequence table (`40_sequence_table.md`): two read-only tables of 4 entries by 2 bits, the whole
addressed storage of the block (`20_memory.md` R35 to R37). -/

namespace Sys2Proof.Machine

/-- `FORWARD(i)` (R64): `forward[0..3] = [0,1,3,2]`. -/
def forward (i : Index) : Phase :=
  if i = 0 then 0
  else if i = 1 then 1
  else if i = 2 then 3
  else 2

/-- `INVERSE(p)` (R65): `inverse[0]=0, inverse[1]=1, inverse[3]=2, inverse[2]=3`.
Kept apart from `forward` although the two functions are equal, as R69 asks. -/
def inverse (p : Phase) : Index :=
  if p = 0 then 0
  else if p = 1 then 1
  else if p = 3 then 2
  else 3

end Sys2Proof.Machine
end

