-- ==== Sys2Proof/Machine/Operands.lean ====
section
/-! DEFINITION. Operand assembly (`30_encoding.md` section 3): the gather of a slot's two bits, the scatter of a phase into
them, the derived views of a Status Byte (`10_state.md` R28, R29), and the masks of R58. -/

namespace Sys2Proof.Machine

/-- The two bits of a byte at a slot, the step position high: `(bit(v, stepBit) << 1) | bit(v, dirBit)` (R28, R54). -/
def gather (v : Byte) (stepBit dirBit : Nat) : BitVec 2 :=
  BitVec.ofBool (bit v stepBit) ++ BitVec.ofBool (bit v dirBit)

/-- Step (4) of `SETAXISPHASE` (`42_multi_axis_compositor.md` R92, R95): clear both positions, then put bit 1 of the 2-bit
value at the step position and bit 0 at the direction position. -/
def scatter (r : Byte) (stepBit dirBit : Nat) (p : BitVec 2) : Byte :=
  let r0 := r &&& ~~~((1#8 <<< stepBit) ||| (1#8 <<< dirBit))
  r0 ||| (bitByte (bit p 1) <<< stepBit) ||| (bitByte (bit p 0) <<< dirBit)

/-- `AXPHASE(s, a)` (R28): the phase of axis `a` held in a byte read as state or as output. -/
def axPhase (c : Config) (s : Byte) (a : Axis) : Phase :=
  gather s (c.slot a).stepBit (c.slot a).dirBit

/-- `AXINDEX(s, a) = inverse[AXPHASE(s, a)]` (R29); no index is stored. -/
def axIndex (c : Config) (s : Byte) (a : Axis) : Index :=
  inverse (axPhase c s a)

/-- `CMD(w, a) = {STEP(w, a), DIR(w, a)}` (R54): the command field of axis `a` in an input word. -/
def cmdField (c : Config) (w : Byte) (a : Axis) : CmdField :=
  gather w (c.slot a).stepBit (c.slot a).dirBit

/-- A byte with the two bits at axis `a`'s slot replaced by a 2-bit value: a phase (R51) or a command field (R54). -/
def putSlot (c : Config) (r : Byte) (a : Axis) (p : BitVec 2) : Byte :=
  scatter r (c.slot a).stepBit (c.slot a).dirBit p

/-- A cycle index as the integer the document's `currentIndex: int` is (R72). -/
def indexInt (i : Index) : Int :=
  (i.toNat : Int)

/-- `zext_8(p)`: a phase in its 8-bit container, bits 7 to 2 zero (R13, R50). -/
def container (p : Phase) : Byte :=
  p.setWidth 8

/-- `1 << stepBit` of an axis (R58). -/
def stepMask (c : Config) (a : Axis) : Byte :=
  1#8 <<< (c.slot a).stepBit

/-- `1 << dirBit` of an axis (R58). -/
def dirMask (c : Config) (a : Axis) : Byte :=
  1#8 <<< (c.slot a).dirBit

/-- `STEP_MASK` (R58): all three step positions. -/
def allStepMask (c : Config) : Byte :=
  stepMask c .x ||| stepMask c .y ||| stepMask c .z

/-- `DIR_MASK` (R58): all three direction positions. -/
def allDirMask (c : Config) : Byte :=
  dirMask c .x ||| dirMask c .y ||| dirMask c .z

/-- The two positions of one axis's slot. -/
def slotMask (c : Config) (a : Axis) : Byte :=
  stepMask c a ||| dirMask c a

/-- `AXIS_MASK` (R58): all six slot positions. -/
def axisMask (c : Config) : Byte :=
  slotMask c .x ||| slotMask c .y ||| slotMask c .z

/-- `PT_MASK` (R58): the pass-through positions, those in no slot (R52). -/
def passMask (c : Config) : Byte :=
  ~~~(axisMask c)

/-- Position `n` of a byte belongs to axis `a`'s slot. -/
def inSlot (c : Config) (a : Axis) (n : Nat) : Prop :=
  n = (c.slot a).stepBit ∨ n = (c.slot a).dirBit

/-- Position `n` of a byte belongs to no slot: a pass-through position (R52). -/
def passThrough (c : Config) (n : Nat) : Prop :=
  n < 8 ∧ ∀ a : Axis, ¬ inSlot c a n

end Sys2Proof.Machine
end

