-- ==== Sys2Proof/Machine/Stepper.lean ====
section
/-! DEFINITION. The single-axis stepper (`41_single_axis_stepper.md`): pure functions of a step flag, a direction flag and a
cycle index. They write nothing, set no flag and raise nothing (R91). -/

namespace Sys2Proof.Machine

/-- `NEXTINDEX(i)` (R73), on every integer: by cases, not a modulo; 0 for 3 and for everything outside 0 to 3
(`90_conflicts.md` C2). -/
def nextIndex (i : Int) : Index :=
  if i = 0 then 1
  else if i = 1 then 2
  else if i = 2 then 3
  else 0

/-- `INVERT2(p)` (R75): the complement within two bits. -/
def invert2 (p : Phase) : Phase :=
  ~~~p

/-- `NEXTPHASE(step, dir, i)` (R76). -/
def nextPhase (step dir : Bool) (i : Int) : Phase :=
  if step = false then 0
  else
    let n := nextIndex i
    let p := forward n
    let q := if dir = false then invert2 p else p
    q &&& 0b11

/-- `AX.IDLE` (R81): "next phase = 0"; the index and the direction flag are ignored. -/
def axIdlePhase (_i : Int) : Phase :=
  0

/-- `AX.STEPT` (R82): `FORWARD(NEXTINDEX(i))`. -/
def axSteptPhase (i : Int) : Phase :=
  forward (nextIndex i)

/-- `AX.STEPC` (R83): `INVERT2(FORWARD(NEXTINDEX(i)))`. -/
def axStepcPhase (i : Int) : Phase :=
  invert2 (forward (nextIndex i))

/-- `AXNEXT(cmd, p) = NEXTPHASE(bit(cmd, 1), bit(cmd, 0), INVERSE(p))` (R86). -/
def axNext (cmd : CmdField) (p : Phase) : Phase :=
  nextPhase (bit cmd 1) (bit cmd 0) (indexInt (inverse p))

end Sys2Proof.Machine
end

