-- ==== Sys2Proof/Machine/Compositor.lean ====
section
/-! DEFINITION. The multi-axis phase compositor (`42_multi_axis_compositor.md`): pure functions, neither touches `CUR_PHASE`. -/

namespace Sys2Proof.Machine

/-- `SETAXISPHASE(input, state, result, stepBit, dirBit)` (R92), in the document's five steps. -/
def setAxisPhase (input state result : Byte) (stepBit dirBit : Nat) : Byte :=
  let step := bit input stepBit
  let dir := bit input dirBit
  let cur := gather state stepBit dirBit
  let idx := inverse cur
  let np := nextPhase step dir (indexInt idx)
  scatter result stepBit dirBit np

/-- One application of `SETAXISPHASE` with the slot of axis `a`. -/
def applyAxis (c : Config) (input state : Byte) (a : Axis) (result : Byte) : Byte :=
  setAxisPhase input state result (c.slot a).stepBit (c.slot a).dirBit

/-- `COMPOSITE(input, state)` (R100): `result` starts as the input and is threaded through the axes X, Y, Z; every
application gets the same `input` and the same `state`. -/
def composite (c : Config) (input state : Byte) : Byte :=
  let r0 := input
  let r1 := applyAxis c input state .x r0
  let r2 := applyAxis c input state .y r1
  let r3 := applyAxis c input state .z r2
  r3

/-- A byte with each axis's slot holding a given phase and every other bit as in `w`: what R102 says a result consists of. -/
def assemble (c : Config) (phase : Axis → Phase) (w : Byte) : Byte :=
  putSlot c (putSlot c (putSlot c w .x (phase .x)) .y (phase .y)) .z (phase .z)

/-- The result of a word in which axis `a` executes a command whose next phase is `np`; the other two lanes follow the
commands of the word by `AXNEXT` (R86, R102). -/
def laneComposite (c : Config) (a : Axis) (np : Phase) (w state : Byte) : Byte :=
  assemble c (fun b => if b = a then np else axNext (cmdField c w b) (axPhase c state b)) w

end Sys2Proof.Machine
end

