-- ==== Sys2Proof/WellFormed.lean ====
section
/-! DEFINITION. Well-formed instructions. (The well-formedness of a configuration is `Slots.wf`, in Config.lean.) -/

namespace Sys2Proof

/-- The operand `rest` of a lane row leaves the two positions of the row's slot free: they belong to the row's own command. -/
def restFree (c : Config) (a : Axis) (rest : Byte) : Bool :=
  decide (Machine.gather rest (c.slot a).stepBit (c.slot a).dirBit = 0)

/-- A well-formed instruction under a configuration. Every `convert` is (R59: every 8-bit input is valid); a lane row is
when its operand `rest` holds nothing at the row's own slot. -/
def Instr.wf (c : Config) : Instr → Bool
  | .convert _ => true
  | .axIdle a _ rest => restFree c a rest
  | .axStept a rest => restFree c a rest
  | .axStepc a rest => restFree c a rest
  | .xIdle _ rest => restFree c .x rest
  | .xStept rest => restFree c .x rest
  | .xStepc rest => restFree c .x rest
  | .yIdle _ rest => restFree c .y rest
  | .yStept rest => restFree c .y rest
  | .yStepc rest => restFree c .y rest
  | .zIdle _ rest => restFree c .z rest
  | .zStept rest => restFree c .z rest
  | .zStepc rest => restFree c .z rest

end Sys2Proof
end

