-- ==== Sys2Proof/Decode.lean ====
section
/-! DEFINITION. The decoder (`30_encoding.md` R53 to R60), the rows of the opcode table as mask and value, and the encoder.
Decoding is total: "All 256 input words are `CONVERT`. The decoder is total and never answers "invalid"" (R59). -/

namespace Sys2Proof

/-- Word decode (R56, R59): every input word is one `CONVERT`. -/
def decode (w : Byte) : Instr :=
  .convert w

/-- Why a list of bytes is not one command word. -/
inductive DecodeRefusal where
  /-- The list is empty: no word was presented. -/
  | noWord
  /-- The list is longer than the one byte every command word has (R60). -/
  | notOneByte
deriving DecidableEq, Repr

/-- Decode of a list of bytes: exactly one byte is a word (R60). -/
def decodeBytes : List Byte → Except DecodeRefusal Instr
  | [] => .error .noWord
  | [w] => .ok (decode w)
  | _ :: _ :: _ => .error .notOneByte

/-- Axis command decode over the field `AX2` (R55). -/
def decodeField (f : CmdField) : AxisCmd :=
  if Machine.bit f 1 then
    if Machine.bit f 0 then .stept else .stepc
  else .idle (Machine.bit f 0)

/-- The field `AX2` of a command (R55): `0d`, `11`, `10`. -/
def encodeField : AxisCmd → CmdField
  | .idle dir => if dir then 0b01 else 0b00
  | .stept => 0b11
  | .stepc => 0b10

/-- The `AX.` row of a command in axis `a`'s slot. -/
def fieldInstr (a : Axis) (rest : Byte) : AxisCmd → Instr
  | .idle dir => .axIdle a dir rest
  | .stept => .axStept a rest
  | .stepc => .axStepc a rest

/-- The `X.`, `Y.` or `Z.` row of a command in a named axis's lane. -/
def laneInstr (a : Axis) (rest : Byte) (cmd : AxisCmd) : Instr :=
  match a, cmd with
  | .x, .idle dir => .xIdle dir rest
  | .x, .stept => .xStept rest
  | .x, .stepc => .xStepc rest
  | .y, .idle dir => .yIdle dir rest
  | .y, .stept => .yStept rest
  | .y, .stepc => .yStepc rest
  | .z, .idle dir => .zIdle dir rest
  | .z, .stept => .zStept rest
  | .z, .stepc => .zStepc rest

/-- The readings a word has: the whole word, the field in an axis's slot, the lane of an axis.
"A word matches the `CONVERT` row and exactly one row of each axis" (R56). -/
inductive Reading where
  | word
  | field (a : Axis)
  | lane (a : Axis)
deriving DecidableEq, Repr

/-- The reading an instruction's row belongs to. -/
def Instr.reading : Instr → Reading
  | .convert _ => .word
  | .axIdle a _ _ => .field a
  | .axStept a _ => .field a
  | .axStepc a _ => .field a
  | .xIdle _ _ => .lane .x
  | .xStept _ => .lane .x
  | .xStepc _ => .lane .x
  | .yIdle _ _ => .lane .y
  | .yStept _ => .lane .y
  | .yStepc _ => .lane .y
  | .zIdle _ _ => .lane .z
  | .zStept _ => .lane .z
  | .zStepc _ => .lane .z

/-- The step/direction decoder (R53 to R56): the row a word matches under a given reading.
The lane rows of the opcode table are reached here, not by `decode`. -/
def decodeAs (c : Config) (r : Reading) (w : Byte) : Instr :=
  match r with
  | .word => decode w
  | .field a => fieldInstr a (Machine.putSlot c w a 0) (decodeField (Machine.cmdField c w a))
  | .lane a => laneInstr a (Machine.putSlot c w a 0) (decodeField (Machine.cmdField c w a))

/-- The word of a lane row: the row's other bits with the command field put into the axis's slot. -/
def laneWord (c : Config) (a : Axis) (cmd : AxisCmd) (rest : Byte) : Byte :=
  Machine.putSlot c rest a (encodeField cmd)

/-- The encoder under a configuration: the word of an instruction. -/
def encodeAt (c : Config) : Instr → Byte
  | .convert w => w
  | .axIdle a dir rest => laneWord c a (.idle dir) rest
  | .axStept a rest => laneWord c a .stept rest
  | .axStepc a rest => laneWord c a .stepc rest
  | .xIdle dir rest => laneWord c .x (.idle dir) rest
  | .xStept rest => laneWord c .x .stept rest
  | .xStepc rest => laneWord c .x .stepc rest
  | .yIdle dir rest => laneWord c .y (.idle dir) rest
  | .yStept rest => laneWord c .y .stept rest
  | .yStepc rest => laneWord c .y .stepc rest
  | .zIdle dir rest => laneWord c .z (.idle dir) rest
  | .zStept rest => laneWord c .z .stept rest
  | .zStepc rest => laneWord c .z .stepc rest

/-- The encoder under `SLOTS_REF`, under which the opcode table's words are written. -/
def encode (i : Instr) : Byte :=
  encodeAt Config.reference i

/-- One row of the opcode table: a name, and the mask and value its words or fields match. -/
inductive OpRow where
  /-- Format `W8`: mask and value over the whole word. -/
  | w8 (mnemonic : String) (mask value : Byte)
  /-- Format `AX2`: mask and value over the 2-bit field. -/
  | ax2 (mnemonic : String) (mask value : CmdField)
deriving DecidableEq, Repr

/-- The rows of the opcode table that belong to a reading, as `spec/opcode_table.json` gives them (R55, R56; the `W8` lane
rows are under `SLOTS_REF`). -/
def rowsFor : Reading → List OpRow
  | .word => [.w8 "CONVERT" 0x00 0x00]
  | .field _ => [.ax2 "AX.IDLE" 0b10 0b00, .ax2 "AX.STEPT" 0b11 0b11, .ax2 "AX.STEPC" 0b11 0b10]
  | .lane .x => [.w8 "X.IDLE" 0x04 0x00, .w8 "X.STEPT" 0x24 0x24, .w8 "X.STEPC" 0x24 0x04]
  | .lane .y => [.w8 "Y.IDLE" 0x08 0x00, .w8 "Y.STEPT" 0x48 0x48, .w8 "Y.STEPC" 0x48 0x08]
  | .lane .z => [.w8 "Z.IDLE" 0x10 0x00, .w8 "Z.STEPT" 0x90 0x90, .w8 "Z.STEPC" 0x90 0x10]

/-- The mnemonic of an instruction's row. -/
def Instr.mnemonic : Instr → String
  | .convert _ => "CONVERT"
  | .axIdle _ _ _ => "AX.IDLE"
  | .axStept _ _ => "AX.STEPT"
  | .axStepc _ _ => "AX.STEPC"
  | .xIdle _ _ => "X.IDLE"
  | .xStept _ => "X.STEPT"
  | .xStepc _ => "X.STEPC"
  | .yIdle _ _ => "Y.IDLE"
  | .yStept _ => "Y.STEPT"
  | .yStepc _ => "Y.STEPC"
  | .zIdle _ _ => "Z.IDLE"
  | .zStept _ => "Z.STEPT"
  | .zStepc _ => "Z.STEPC"

/-- The name of a row. -/
def OpRow.mnemonic : OpRow → String
  | .w8 m _ _ => m
  | .ax2 m _ _ => m

/-- A word matches a row under `SLOTS_REF`, read in a given reading: a `W8` row over the whole word, an `AX2` row over the
field of the axis the reading names. -/
def OpRow.matchesWord (row : OpRow) (r : Reading) (w : Byte) : Bool :=
  match row, r with
  | .w8 _ mask value, .word => decide (w &&& mask = value)
  | .w8 _ mask value, .lane _ => decide (w &&& mask = value)
  | .ax2 _ mask value, .field a => decide (Machine.cmdField Config.reference w a &&& mask = value)
  | .w8 _ _ _, .field _ => false
  | .ax2 _ _ _, .word => false
  | .ax2 _ _ _, .lane _ => false

/-- The input byte whose bits the host numbers as the opcode table does; every bit above `nbits` is 0. -/
def tableByte (nbits w : Nat) : Byte :=
  BitVec.ofNat 8 (w % 2 ^ nbits)

/-- The instruction the decoder reads from an instruction whose bits are `w`.
The longest command word is one byte (R60), so nothing longer than 8 bits is a word.
Every word is `CONVERT`; the lane rows are readings of the same word (log entry 7). -/
def decodeTableWord (nbits w : Nat) : Option Instr :=
  if nbits ≤ 8 then some (decode (tableByte nbits w)) else none

end Sys2Proof
end

