-- ==== Sys2Proof/Machine/State.lean ====
section
/-! DEFINITION. The state of the machine (`10_state.md`), the reasons a step can stop, and the state after reset. -/

namespace Sys2Proof.Machine

/-- The input ports of the hardware view at one clock edge (`10_state.md` R33): `rst`, `tick` and `sd_in`. -/
structure Edge where
  rst : Bool
  tick : Bool
  sdIn : Byte
deriving DecidableEq, Repr

/-- The state of one converter. -/
structure State where
  /-- `CUR_PHASE`, "the block's only storage element" (R20); all 8 bits are kept (R31, D23). -/
  curPhase : Byte
  /-- The checked configuration `SLOTS`. It is a parameter of the whole run and not state of the block (`00_scope.md` R16);
  it stands here because a step has no other argument, and nothing writes it (log entry 1). -/
  config : Config
  /-- The clock edges still to come, the first one first: the input of the machine, the model's own field (log entry 4). -/
  edges : List Edge
deriving DecidableEq, Repr

/-- There is no fault: "No recoverable or fatal error conditions exist in the core" (`60_exceptions.md` R120, R133).
The type has no constructor, so no step can end in one (safe). -/
inductive Fault where
deriving DecidableEq, Repr

/-- The refusal reasons of the block: "one, `IllFormedSlots`, raised when the configuration is built, never during a run" (R133). -/
inductive RefusalReason where
  /-- Raised by `buildConfig`, and through it by `startUp`, for a configuration that fails its check; safe. -/
  | illFormedSlots
deriving DecidableEq, Repr

/-- The refusals of an outcome in the form the host's interface fixes: the block's one reason, and the host's own placeholder. -/
inductive Refusal where
  /-- Not a reason of the block: the constructor the host's interface requires for an instruction that has no meaning yet.
  Every instruction has its meaning, so nothing raises it (safe; log entry 21). -/
  | notModelled (mnemonic : String)
  /-- A reason of the block (R133): raised by `startUp` alone, never by `exec` or `step`; safe. -/
  | reason (r : RefusalReason)
deriving DecidableEq, Repr

/-- The state after reset of a converter built with configuration `c`: `CUR_PHASE = 0x00` (R22), no edge pending. -/
def State.resetAt (c : Config) : State :=
  { curPhase := 0x00, config := c, edges := [] }

/-- The machine right after reset, built with the reference configuration `SLOTS_REF` (log entry 1). -/
def State.reset : State :=
  State.resetAt Config.reference

/-- The output port `ph_out`: it "is `CUR_PHASE` itself" (R33). -/
def State.phOut (s : State) : Byte :=
  s.curPhase

end Sys2Proof.Machine
end

