-- ==== Sys2Proof/Machine/Ops.lean ====
section
/-! DEFINITION. The shared operations on the state: the one register's read and write, `CONVERT`, a lane command, `RESET`,
the port view of one clock edge, and start-up.
The block takes no exception and has no return from one (`60_exceptions.md` R120, R125, R126): there is no such operation. -/

namespace Sys2Proof.Machine

/-- The read of `CUR_PHASE`, no side effect (`20_memory.md` R42). -/
def readCurPhase (s : State) : Byte :=
  s.curPhase

/-- `CUR_PHASE <- v` (`00_scope.md` R13): all 8 bits at once, nothing else (`20_memory.md` R41). -/
def writeCurPhase (v : Byte) (s : State) : State :=
  { s with curPhase := v }

/-- `CONVERT(w)` (`43_converter.md` R108): the old register, whole, goes in; the result is written once at the end. -/
def convertState (w : Byte) (s : State) : State :=
  let next := composite s.config w (readCurPhase s)
  writeCurPhase next s

/-- The byte `CONVERT(w)` returns, the same as the one it stores (R108 step 3, R109). -/
def convertReturns (w : Byte) (s : State) : Byte :=
  (convertState w s).phOut

/-- A conversion seen from the row of one lane: the word is the row's bits with the command in axis `a`'s slot, the lane's
next phase is the one `rule` gives for the axis's current index (R81 to R83), and the conversion is whole: the other lanes
and the pass-through bits follow the word (R56, R102). -/
def laneState (a : Axis) (cmd : AxisCmd) (rule : Int → Phase) (rest : Byte) (s : State) : State :=
  let w := laneWord s.config a cmd rest
  let np := rule (indexInt (axIndex s.config (readCurPhase s) a))
  writeCurPhase (laneComposite s.config a np w (readCurPhase s)) s

/-- `RESET` (`70_reset_and_hazards.md` R134): `CUR_PHASE <- 0x00`. The configuration and the pending input stay (R135). -/
def resetEvent (s : State) : State :=
  writeCurPhase 0x00 s

/-- One clock edge of the port view, with the conversion as an argument (`43_converter.md` R117, `60_exceptions.md` R124):
`rst` wins over `tick` and the word of that edge is dropped; with `tick` alone the word is converted; with neither, nothing
changes. With no edge listed no conversion is requested, which is an edge with `rst = 0` and `tick = 0` (log entry 5). -/
def clockEdge (convert : Byte → State → Host.Outcome State Fault Refusal) (s : State) :
    Host.Outcome State Fault Refusal :=
  match s.edges with
  | [] => .next s
  | e :: rest =>
    let s' := { s with edges := rest }
    if e.rst then .next (resetEvent s')
    else if e.tick then convert e.sdIn s'
    else .next s'

/-- The check of a configuration, done once when it is built (`00_scope.md` R9, D13): an ill-formed one is refused. -/
def buildConfig (slots : Slots) : Except RefusalReason Config :=
  if h : slots.wf = true then .ok { slots := slots, wf := h } else .error .illFormedSlots

/-- Start-up (`70_reset_and_hazards.md` R138, R140): build and check `SLOTS`, then `RESET`; the input follows. -/
def startUp (slots : Slots) (input : List Edge) : Host.Outcome State Fault Refusal :=
  match buildConfig slots with
  | .ok c => .next { State.resetAt c with edges := input }
  | .error r => .refused (.reason r)

end Sys2Proof.Machine
end

