-- ==== Sys2Proof/Machine/AxisCommands.lean ====
section
/-! DEFINITION. The three per-axis commands over the field `AX2`, in the slot of any axis (`41_single_axis_stepper.md` R81 to R83). -/

namespace Sys2Proof.Machine

/-- `AX.IDLE` (R81) in axis `a`'s slot. -/
def execAxIdle (a : Axis) (dir : Bool) (rest : Byte) (s : State) : Host.Outcome State Fault Refusal :=
  .next (laneState a (.idle dir) axIdlePhase rest s)

/-- `AX.STEPT` (R82) in axis `a`'s slot. -/
def execAxStept (a : Axis) (rest : Byte) (s : State) : Host.Outcome State Fault Refusal :=
  .next (laneState a .stept axSteptPhase rest s)

/-- `AX.STEPC` (R83) in axis `a`'s slot. -/
def execAxStepc (a : Axis) (rest : Byte) (s : State) : Host.Outcome State Fault Refusal :=
  .next (laneState a .stepc axStepcPhase rest s)

end Sys2Proof.Machine
end

