-- ==== Sys2Proof/Machine/Converter.lean ====
section
/-! DEFINITION. The converter (`43_converter.md`): the meaning of `CONVERT`, and the run function of R112 and R19. -/

namespace Sys2Proof.Machine

/-- `CONVERT(w)` (R108): total, one outcome, for every byte. -/
def execConvert (w : Byte) (s : State) : Host.Outcome State Fault Refusal :=
  .next (convertState w s)

/-- The edge that delivers `CONVERT(w)`: `rst = 0`, `tick = 1`, `sd_in = w` (R117). -/
def tickEdge (w : Byte) : Edge :=
  { rst := false, tick := true, sdIn := w }

/-- The run function (R112): the outputs of a list of input bytes from a register value, first output first. -/
def runOutputs (c : Config) : List Byte → Byte → List Byte
  | [], _ => []
  | w :: ws, cur => composite c w cur :: runOutputs c ws (composite c w cur)

/-- The register after a list of input bytes (R112). -/
def runFinal (c : Config) : List Byte → Byte → Byte
  | [], cur => cur
  | w :: ws, cur => runFinal c ws (composite c w cur)

/-- The byte an edge's event returns: a conversion returns one, `RESET` and an edge without a request return none
(`95_test_vectors.md` section 2.9). -/
def edgeReturns (c : Config) (e : Edge) (cur : Byte) : Option Byte :=
  if e.rst then none else if e.tick then some (composite c e.sdIn cur) else none

/-- The register after an edge (R117, R134). -/
def edgeRegister (c : Config) (e : Edge) (cur : Byte) : Byte :=
  if e.rst then 0x00 else if e.tick then composite c e.sdIn cur else cur

end Sys2Proof.Machine
end

