-- ==== Sys2Proof/Machine/Lanes.lean ====
section
/-! DEFINITION. The nine word-level rows of `30_encoding.md` R56: the three per-axis commands in the lane of X, of Y and of Z. -/

namespace Sys2Proof.Machine

/-- `X.IDLE`: R81 in the lane of axis X. -/
def execXIdle (dir : Bool) (rest : Byte) (s : State) : Host.Outcome State Fault Refusal :=
  .next (laneState .x (.idle dir) axIdlePhase rest s)

/-- `X.STEPT`: R82 in the lane of axis X. -/
def execXStept (rest : Byte) (s : State) : Host.Outcome State Fault Refusal :=
  .next (laneState .x .stept axSteptPhase rest s)

/-- `X.STEPC`: R83 in the lane of axis X. -/
def execXStepc (rest : Byte) (s : State) : Host.Outcome State Fault Refusal :=
  .next (laneState .x .stepc axStepcPhase rest s)

/-- `Y.IDLE`: R81 in the lane of axis Y. -/
def execYIdle (dir : Bool) (rest : Byte) (s : State) : Host.Outcome State Fault Refusal :=
  .next (laneState .y (.idle dir) axIdlePhase rest s)

/-- `Y.STEPT`: R82 in the lane of axis Y. -/
def execYStept (rest : Byte) (s : State) : Host.Outcome State Fault Refusal :=
  .next (laneState .y .stept axSteptPhase rest s)

/-- `Y.STEPC`: R83 in the lane of axis Y. -/
def execYStepc (rest : Byte) (s : State) : Host.Outcome State Fault Refusal :=
  .next (laneState .y .stepc axStepcPhase rest s)

/-- `Z.IDLE`: R81 in the lane of axis Z. -/
def execZIdle (dir : Bool) (rest : Byte) (s : State) : Host.Outcome State Fault Refusal :=
  .next (laneState .z (.idle dir) axIdlePhase rest s)

/-- `Z.STEPT`: R82 in the lane of axis Z. -/
def execZStept (rest : Byte) (s : State) : Host.Outcome State Fault Refusal :=
  .next (laneState .z .stept axSteptPhase rest s)

/-- `Z.STEPC`: R83 in the lane of axis Z. -/
def execZStepc (rest : Byte) (s : State) : Host.Outcome State Fault Refusal :=
  .next (laneState .z .stepc axStepcPhase rest s)

end Sys2Proof.Machine
end

