-- ==== Sys2Proof/Machine/Dispatch.lean ====
section
/-! DEFINITION. The meaning of each row of the opcode table, one arm per constructor. -/

namespace Sys2Proof.Machine

def exec (i : Instr) (s : State) : Host.Outcome State Fault Refusal :=
  match i with
  | .convert w => Sys2Proof.Machine.execConvert w s
  | .axIdle a dir rest => Sys2Proof.Machine.execAxIdle a dir rest s
  | .axStept a rest => Sys2Proof.Machine.execAxStept a rest s
  | .axStepc a rest => Sys2Proof.Machine.execAxStepc a rest s
  | .xIdle dir rest => Sys2Proof.Machine.execXIdle dir rest s
  | .xStept rest => Sys2Proof.Machine.execXStept rest s
  | .xStepc rest => Sys2Proof.Machine.execXStepc rest s
  | .yIdle dir rest => Sys2Proof.Machine.execYIdle dir rest s
  | .yStept rest => Sys2Proof.Machine.execYStept rest s
  | .yStepc rest => Sys2Proof.Machine.execYStepc rest s
  | .zIdle dir rest => Sys2Proof.Machine.execZIdle dir rest s
  | .zStept rest => Sys2Proof.Machine.execZStept rest s
  | .zStepc rest => Sys2Proof.Machine.execZStepc rest s

end Sys2Proof.Machine
end

