-- ==== Sys2Proof/Machine/Step.lean ====
section
/-! DEFINITION. One step of the machine: one clock edge of the port view, the next one listed. -/

namespace Sys2Proof.Machine

/-- One step is one event, not an instruction fetch (`10_state.md` R24): the word of a conversion edge is decoded and run. -/
def step (s : State) : Host.Outcome State Fault Refusal :=
  clockEdge (fun w s' => exec (decode w) s') s

/-- The state whose very next step runs the given word: an edge that delivers it stands before the other input (log entry 8). -/
def State.withFetchWord (s : State) (nbits w : Nat) : State :=
  { s with edges := tickEdge (tableByte nbits w) :: s.edges }

end Sys2Proof.Machine
end

