-- ==== Sys2Proof/Machine/Instances.lean ====
section
/-! DEFINITION. Several converters (`60_exceptions.md` R130, D21): "a product of independent copies of the single-instance
model", each with its own `CUR_PHASE`, its own `SLOTS` and its own input. -/

namespace Sys2Proof.Machine

/-- The next state of a step, or the same state where the step gives none (it always gives one, R120). -/
def nextOrSame (s : State) : State :=
  match step s with
  | .next t => t
  | .fault _ => s
  | .refused _ => s

/-- One event on instance `k` of several converters; there is no instance identifier inside an instance. -/
def stepInstance (k : Nat) (bank : List State) : List State :=
  bank.modify k nextOrSame

end Sys2Proof.Machine
end

