-- ==== Sys2Proof/Safety.lean ====
section
/-! DEFINITION. What counts as a safe run, and the duties of the producer as named premises of claims about motion
(`70_reset_and_hazards.md` R141 to R146). None of the duties is checked by the block. -/

namespace Sys2Proof

open Machine

/-- An outcome is a next state. -/
def Completes (o : Host.Outcome State Fault Refusal) : Prop :=
  ∃ t, o = .next t

/-- A state is safe if the machine goes on from it: no fault, no refusal (`60_exceptions.md` R120). -/
def Safe (s : State) : Prop :=
  Completes (step s)

/-- What a conversion whose word holds a command in axis `a`'s slot leaves: lane `a` at phase `np`, the other lanes at the
phase their own commands in `rest` give, the pass-through bits of `rest`; and what it does not touch: the configuration
and the input still to come (R102, R111). -/
def LaneResult (s t : State) (a : Axis) (np : Phase) (rest : Byte) : Prop :=
  axPhase s.config t.curPhase a = np ∧
  (∀ b, b ≠ a → axPhase s.config t.curPhase b = axNext (cmdField s.config rest b) (axPhase s.config s.curPhase b)) ∧
  (∀ n, passThrough s.config n → bit t.curPhase n = bit rest n) ∧
  t.config = s.config ∧ t.edges = s.edges

/-- Two bytes agree at every position outside axis `a`'s slot. -/
def agreeOutside (c : Config) (a : Axis) (u v : Byte) : Prop :=
  ∀ n, n < 8 → ¬ inSlot c a n → bit u n = bit v n

/-- Two bytes agree at all six slot positions. -/
def agreeOnSlots (c : Config) (u v : Byte) : Prop :=
  ∀ a, axPhase c u a = axPhase c v a

/-- The step command a word holds for an axis: the direction flag of a step, none for an idle call. -/
def stepCommand (c : Config) (a : Axis) (w : Byte) : Option Bool :=
  if stepFlag c w a then some (dirFlag c w a) else none

/-- The producer's duty (R142, R143): the calls deliver exactly the intended steps of axis `a`, one call per step, in order,
each with its direction in the same word, and no idle call between them. -/
def deliversSteps (c : Config) (a : Axis) (intended : List Bool) (calls : List Byte) : Prop :=
  calls.map (stepCommand c a) = intended.map some

/-- The net number of places a list of steps asks for: table order counts up, complement order counts down (R84, R85). -/
def netPlaces : List Bool → Int
  | [] => 0
  | dir :: rest => (if dir then 1 else -1) + netPlaces rest

/-- The cycle position of an axis, as an integer. -/
def position (c : Config) (cur : Byte) (a : Axis) : Int :=
  indexInt (axIndex c cur a)

/-- The number of calls of a run at which the phase of axis `a` changes. -/
def phaseAdvances (c : Config) (a : Axis) : List Byte → Byte → Nat
  | [], _ => 0
  | w :: ws, cur =>
    (if axPhase c (composite c w cur) a = axPhase c cur a then 0 else 1)
      + phaseAdvances c a ws (composite c w cur)

/-- Every pending edge leaves axis `a` without a step command, or resets the block. -/
def noStepPending (s : State) (a : Axis) : Prop :=
  ∀ e ∈ s.edges, e.rst = false → e.tick = true → stepFlag s.config e.sdIn a = false

/-- Axis `a` rests: it is at phase 0 and no pending edge steps it. -/
def AxisRests (s : State) (a : Axis) : Prop :=
  axPhase s.config s.curPhase a = 0 ∧ noStepPending s a

/-- The pass-through bits are quiet: they are 0 in the register and in every word still to come. -/
def PassThroughQuiet (s : State) : Prop :=
  s.curPhase &&& passMask s.config = 0 ∧ ∀ e ∈ s.edges, e.sdIn &&& passMask s.config = 0

end Sys2Proof
end

