-- ==== Sys2Proof/Certificates/Slice0/Obligations.lean ====
section
/-! DEFINITION. The statements for the provers. Each docstring names the rule or the section of `spec/` it formalises.
A rule that the spec marks [derived] or [decision] is its writer's inference or choice: a statement of one is 'derived'. -/

open Sys2Proof Sys2Proof.Machine

/-! ## Reset -/

/-- `10_state.md` section 1 and `70_reset_and_hazards.md` section 1: reset leaves 0x00, every axis at phase 0, index 0, and
the output port at 0x00, under every configuration; the `RESET` event does the same to any state and touches nothing else.
That a reset is an event of the hardware is the spec's decision D10. -/
def Obligations.ResetPutsEveryAxisAtPhaseZero : Prop :=
  (∀ c : Config, (State.resetAt c).curPhase = 0x00 ∧ (State.resetAt c).phOut = 0x00 ∧
    ∀ a, axPhase c (State.resetAt c).curPhase a = 0 ∧ axIndex c (State.resetAt c).curPhase a = 0) ∧
  ∀ s : State, (resetEvent s).curPhase = 0x00 ∧ (resetEvent s).config = s.config ∧ (resetEvent s).edges = s.edges ∧
    ∀ a, axPhase s.config (resetEvent s).curPhase a = 0

/-- `70_reset_and_hazards.md` section 1 (marked derived there): `RESET` has the effect of a conversion with input 0x00. -/
def Obligations.ResetActsAsConvertZero : Prop :=
  ∀ s : State, resetEvent s = convertState 0x00 s

/-! ## The sequence table -/

/-- R64 and R65: the contents of the two tables. -/
def Obligations.SequenceTableEntries : Prop :=
  (forward 0 = 0 ∧ forward 1 = 1 ∧ forward 2 = 3 ∧ forward 3 = 2) ∧
  (inverse 0 = 0 ∧ inverse 1 = 1 ∧ inverse 3 = 2 ∧ inverse 2 = 3)

/-- `40_sequence_table.md` section 2, both directions of invertibility (the second is marked derived there). -/
def Obligations.TablesInvertEachOther : Prop :=
  (∀ i : Index, inverse (forward i) = i) ∧ (∀ p : Phase, forward (inverse p) = p)

/-- R68: complementing a phase within two bits gives the phase two places further round the cycle. -/
def Obligations.ComplementIsOppositePhase : Prop :=
  ∀ i : Index, ~~~(forward i) = forward (i + 2)

/-- `40_sequence_table.md` section 2 (the wrap is marked derived there): each phase of the cycle differs from the next in
exactly one bit. -/
def Obligations.NeighbourPhasesDifferInOneBit : Prop :=
  ∀ i : Index, (bit (forward i) 0 = bit (forward (i + 1)) 0) ≠ (bit (forward i) 1 = bit (forward (i + 1)) 1)

/-! ## The single-axis stepper -/

/-- R73: the next index by cases on every integer, with the document's examples; not a modulo. -/
def Obligations.NextIndexByCases : Prop :=
  nextIndex 0 = 1 ∧ nextIndex 1 = 2 ∧ nextIndex 2 = 3 ∧ nextIndex 3 = 0 ∧
  (∀ i : Int, i < 0 → nextIndex i = 0) ∧ (∀ i : Int, 4 ≤ i → nextIndex i = 0) ∧
  nextIndex (-1) = 0 ∧ nextIndex (-10) = 0 ∧ nextIndex 4 = 0 ∧ nextIndex 5 = 0 ∧ nextIndex (-2) = 0

/-- `41_single_axis_stepper.md` section 2 (marked derived there): the result is 0 to 3, and inside the range it is the
successor modulo 4. -/
def Obligations.NextIndexInRangeIsModulo : Prop :=
  ∀ i : Int, (0 ≤ indexInt (nextIndex i) ∧ indexInt (nextIndex i) ≤ 3) ∧
    (0 ≤ i → i ≤ 3 → indexInt (nextIndex i) = (i + 1) % 4)

/-- R75: the complement within two bits, in three spellings, its four values, and in an 8-bit container with its mask. -/
def Obligations.InvertComplementsTwoBits : Prop :=
  (∀ p : Phase, invert2 p = ~~~p ∧ (invert2 p).toNat = 3 - p.toNat ∧ invert2 p = p ^^^ 0b11 ∧
    invert2 (invert2 p) = p ∧ container (invert2 p) = ~~~(container p) &&& 0b11) ∧
  invert2 0 = 3 ∧ invert2 1 = 2 ∧ invert2 2 = 1 ∧ invert2 3 = 0

/-- R76 and R79: the arms of `NEXTPHASE`, for every integer index, the zero-step identity among them, and the worked example. -/
def Obligations.NextPhaseArms : Prop :=
  (∀ (dir : Bool) (i : Int), nextPhase false dir i = 0) ∧
  (∀ i : Int, nextPhase true true i = forward (nextIndex i)) ∧
  (∀ i : Int, nextPhase true false i = invert2 (forward (nextIndex i))) ∧
  nextPhase true false 0 = 2

/-- `41_single_axis_stepper.md` section 3 (marked derived there): the two directions give complements, for every integer. -/
def Obligations.DirectionInversionLaw : Prop :=
  ∀ i : Int, nextPhase true false i = invert2 (nextPhase true true i)

/-- `41_single_axis_stepper.md` section 3, the complete value table (marked derived there), out-of-range columns included. -/
def Obligations.NextPhaseValueTable : Prop :=
  ∀ i : Int,
    (nextPhase false false i = 0 ∧ nextPhase false true i = 0) ∧
    (nextPhase true true i = if i = 0 then 1 else if i = 1 then 3 else if i = 2 then 2 else 0) ∧
    (nextPhase true false i = if i = 0 then 2 else if i = 1 then 0 else if i = 2 then 1 else 3)

/-- `41_single_axis_stepper.md` section 4: the three commands' rules as functions of the index, equal to the arms of `NEXTPHASE`, and their
transitions in terms of the current phase. -/
def Obligations.AxisCommandPhases : Prop :=
  (∀ (dir : Bool) (i : Int), axIdlePhase i = 0 ∧ axIdlePhase i = nextPhase false dir i) ∧
  (∀ i : Int, axSteptPhase i = forward (nextIndex i) ∧ axSteptPhase i = nextPhase true true i) ∧
  (∀ i : Int, axStepcPhase i = invert2 (forward (nextIndex i)) ∧ axStepcPhase i = nextPhase true false i) ∧
  ([0, 1, 3, 2].map (fun p : Phase => axSteptPhase (indexInt (inverse p))) = [1, 3, 2, 0]) ∧
  ([0, 2, 3, 1].map (fun p : Phase => axStepcPhase (indexInt (inverse p))) = [2, 3, 1, 0])

/-- `41_single_axis_stepper.md` section 5 (marked derived there): all sixteen transitions of one axis; rows are the current
phases 0, 1, 2, 3, columns the commands 0b00, 0b01, 0b10, 0b11. -/
def Obligations.AxisTransitionTable : Prop :=
  ([0, 1, 2, 3] : List Phase).map (fun p => ([0b00, 0b01, 0b10, 0b11] : List CmdField).map (fun cmd => axNext cmd p)) =
    [[0, 0, 2, 1], [0, 0, 0, 3], [0, 0, 3, 0], [0, 0, 1, 2]]

/-- `41_single_axis_stepper.md` section 5 (marked derived there): complement order is table order backwards; a step the other
way returns; four steps of one kind return and no fewer do; no command holds a phase other than 0. -/
def Obligations.AxisCycleLaws : Prop :=
  (∀ i : Index, nextPhase true false (indexInt i) = forward (i - 1)) ∧
  (∀ p : Phase, axNext 0b10 (axNext 0b11 p) = p ∧ axNext 0b11 (axNext 0b10 p) = p) ∧
  (∀ (p : Phase) (cmd : CmdField), cmd = 0b10 ∨ cmd = 0b11 →
    axNext cmd (axNext cmd (axNext cmd (axNext cmd p))) = p ∧ axNext cmd p ≠ p ∧ axNext cmd (axNext cmd p) ≠ p ∧
    axNext cmd (axNext cmd (axNext cmd p)) ≠ p) ∧
  (∀ (p : Phase) (cmd : CmdField), axNext cmd p = p ↔ p = 0 ∧ bit cmd 1 = false)

/-! ## The compositor -/

/-- R92: the result of `SETAXISPHASE` for every slot, every `input`, `state` and `result`: the axis's next phase at the two
positions, every other bit of `result` as it was; and the worked example. -/
def Obligations.SetAxisPhaseResult : Prop :=
  (∀ (input state result : Byte) (sb db : Nat), sb < 8 → db < 8 → sb ≠ db →
    let np := nextPhase (bit input sb) (bit input db) (indexInt (inverse (gather state sb db)))
    bit (setAxisPhase input state result sb db) sb = bit np 1 ∧
    bit (setAxisPhase input state result sb db) db = bit np 0 ∧
    ∀ n, n < 8 → n ≠ sb → n ≠ db → bit (setAxisPhase input state result sb db) n = bit result n) ∧
  setAxisPhase 0x24 0x00 0x24 2 5 = 0x20

/-- `42_multi_axis_compositor.md` section 1: `SETAXISPHASE` reads two bits of `input` and the same two of `state`, and (marked
derived there) not the two bits of `result` that it clears. -/
def Obligations.SetAxisPhaseReadsOnlyItsSlot : Prop :=
  ∀ (input input' state state' result result' : Byte) (sb db : Nat), sb < 8 → db < 8 → sb ≠ db →
    bit input sb = bit input' sb → bit input db = bit input' db →
    bit state sb = bit state' sb → bit state db = bit state' db →
    (∀ n, n < 8 → n ≠ sb → n ≠ db → bit result n = bit result' n) →
    setAxisPhase input state result sb db = setAxisPhase input' state' result' sb db

/-- `42_multi_axis_compositor.md` section 1 (marked derived there): the mask form, with `|`, with `+` and with `^`. -/
def Obligations.SetAxisPhaseMaskForm : Prop :=
  ∀ (input state result : Byte) (sb db : Nat), sb < 8 → db < 8 → sb ≠ db →
    let np := nextPhase (bit input sb) (bit input db) (indexInt (inverse (gather state sb db)))
    let S := 1#8 <<< sb
    let D := 1#8 <<< db
    let kept := result &&& ~~~(S ||| D)
    let high := if bit np 1 then S else 0
    let low := if bit np 0 then D else 0
    setAxisPhase input state result sb db = kept ||| high ||| low ∧
    setAxisPhase input state result sb db = kept + high + low ∧
    setAxisPhase input state result sb db = kept ^^^ high ^^^ low

/-- `42_multi_axis_compositor.md` section 2 (marked derived there): all six orders of the three applications give the same
byte, under every configuration. -/
def Obligations.AxisOrderCannotBeObserved : Prop :=
  ∀ (c : Config) (w s : Byte) (a b d : Axis), a ≠ b → b ≠ d → a ≠ d →
    applyAxis c w s a (applyAxis c w s b (applyAxis c w s d w)) = composite c w s

/-- `42_multi_axis_compositor.md` section 2 (marked derived there): the lane statement and the pass-through statement are an
equivalent definition of `COMPOSITE`, under every configuration. -/
def Obligations.CompositeIsItsLanes : Prop :=
  ∀ (c : Config) (w s r : Byte), r = composite c w s ↔
    ((∀ a, axPhase c r a = axNext (cmdField c w a) (axPhase c s a)) ∧ ∀ n, passThrough c n → bit r n = bit w n)

/-- `42_multi_axis_compositor.md` section 2, multi-axis independence: changing one axis's input and state bits changes no
output bit outside that axis's slot. -/
def Obligations.AxesDoNotInterfere : Prop :=
  ∀ (c : Config) (a : Axis) (w w' s s' : Byte), agreeOutside c a w w' → agreeOutside c a s s' →
    agreeOutside c a (composite c w s) (composite c w' s')

/-- `42_multi_axis_compositor.md` section 2 and `10_state.md` section 5: the bits outside the slots come from the input and never
from the state (the second clause is marked derived there); the mask form under `SLOTS_REF`. -/
def Obligations.PassThroughBitsCopied : Prop :=
  (∀ (c : Config) (w s : Byte) (n : Nat), passThrough c n → bit (composite c w s) n = bit w n) ∧
  (∀ (c : Config) (w s s' : Byte), agreeOnSlots c s s' → composite c w s = composite c w s') ∧
  (∀ w s : Byte, composite Config.reference w s &&& 0x03 = w &&& 0x03)

/-- `42_multi_axis_compositor.md` section 2 (marked derived there): with every step flag 0 only the pass-through bits remain,
whatever the state; and the document's fixed point. -/
def Obligations.AllIdleLeavesPassThroughOnly : Prop :=
  (∀ (c : Config) (w s : Byte), (∀ a, stepFlag c w a = false) → composite c w s = w &&& passMask c) ∧
  (∀ c : Config, composite c 0x00 0x00 = 0x00)

/-- R57: the direction flag of an idle axis is a don't-care: two words that differ in nothing else give the same result, and
the idle axis's two output bits are 0. -/
def Obligations.IdleDirectionFlagIgnored : Prop :=
  ∀ (c : Config) (w w' s : Byte),
    (∀ a, stepFlag c w a = stepFlag c w' a) → (∀ a, stepFlag c w a = true → dirFlag c w a = dirFlag c w' a) →
    (∀ n, passThrough c n → bit w n = bit w' n) →
    composite c w s = composite c w' s ∧
    ∀ a, stepFlag c w a = false → bit (composite c w s) (c.slot a).stepBit = false ∧ bit (composite c w s) (c.slot a).dirBit = false

/-- R106: the document's regression fixtures under `SLOTS_REF`. -/
def Obligations.CompositeFixtures : Prop :=
  composite Config.reference 8 220 = 64 ∧ composite Config.reference 44 216 = 96 ∧
  composite Config.reference 152 48 = 8 ∧ composite Config.reference 252 200 = 184

/-- `41_single_axis_stepper.md` section 5 and `40_sequence_table.md` section 2 (both marked derived there): an axis that
executes a step command changes its phase in exactly one bit. -/
def Obligations.StepChangesOneBitOfThePhase : Prop :=
  ∀ (c : Config) (w s : Byte) (a : Axis), stepFlag c w a = true →
    (bit (composite c w s) (c.slot a).stepBit = bit s (c.slot a).stepBit) ≠
      (bit (composite c w s) (c.slot a).dirBit = bit s (c.slot a).dirBit)

/-- `41_single_axis_stepper.md` sections 4 and 5 (marked derived there) and `70_reset_and_hazards.md` section 3: an idle
call puts the axis at phase 0, index 0, and the next step command starts from there: phase 1 or phase 2. -/
def Obligations.IdleCallLosesThePosition : Prop :=
  ∀ (c : Config) (w1 w2 s : Byte) (a : Axis), stepFlag c w1 a = false →
    axPhase c (composite c w1 s) a = 0 ∧ axIndex c (composite c w1 s) a = 0 ∧
    (stepFlag c w2 a = true → axPhase c (composite c w2 (composite c w1 s)) a = if dirFlag c w2 a then 1 else 2)

/-! ## The meanings -/

/-- R108: `CONVERT(w)` runs for every byte in every state: the register becomes `COMPOSITE(w, CUR_PHASE)`, nothing else
changes, and the byte returned is the byte stored; and the worked example. -/
def Obligations.ConvertStoresComposite : Prop :=
  (∀ (w : Byte) (s : State),
    exec (.convert w) s = .next { s with curPhase := composite s.config w s.curPhase } ∧
    convertReturns w s = composite s.config w s.curPhase) ∧
  convertReturns 0x1C State.reset = 0x1C ∧ (convertState 0x1C State.reset).curPhase = 0x1C ∧
  convertReturns 0x1C (convertState 0x1C State.reset) = 0xFC

/-- `43_converter.md` section 1, the lane view of one conversion (marked derived there), with its frame. -/
def Obligations.ConvertLaneView : Prop :=
  ∀ (w : Byte) (s : State), ∃ t, exec (.convert w) s = .next t ∧
    (∀ a, axPhase s.config t.curPhase a = axNext (cmdField s.config w a) (axPhase s.config s.curPhase a)) ∧
    (∀ n, passThrough s.config n → bit t.curPhase n = bit w n) ∧ t.config = s.config ∧ t.edges = s.edges

/-- `41_single_axis_stepper.md` section 4, the idle command, in each of its four rows: the lane ends at phase 0, index 0,
whatever it was; the rest of the word runs too (`30_encoding.md` section 2; log entry 6 DEDUCED). -/
def Obligations.IdleRowsPutTheLaneAtPhaseZero : Prop :=
  ∀ (dir : Bool) (rest : Byte) (s : State),
    (∀ a, ∃ t, exec (.axIdle a dir rest) s = .next t ∧ LaneResult s t a 0 rest ∧ axIndex s.config t.curPhase a = 0) ∧
    (∃ t, exec (.xIdle dir rest) s = .next t ∧ LaneResult s t .x 0 rest ∧ axIndex s.config t.curPhase .x = 0) ∧
    (∃ t, exec (.yIdle dir rest) s = .next t ∧ LaneResult s t .y 0 rest ∧ axIndex s.config t.curPhase .y = 0) ∧
    (∃ t, exec (.zIdle dir rest) s = .next t ∧ LaneResult s t .z 0 rest ∧ axIndex s.config t.curPhase .z = 0)

/-- `41_single_axis_stepper.md` section 4, the step in table order, in each of its four rows: the lane ends at
`FORWARD(NEXTINDEX(i))`, and its position is one place further round; the rest of the word runs too
(`30_encoding.md` section 2; log entry 6 DEDUCED). -/
def Obligations.TableOrderRowsAdvanceTheLane : Prop :=
  ∀ (rest : Byte) (s : State),
    let np := fun a => forward (nextIndex (indexInt (axIndex s.config s.curPhase a)))
    let moved := fun (t : State) a => axIndex s.config t.curPhase a = axIndex s.config s.curPhase a + 1
    (∀ a, ∃ t, exec (.axStept a rest) s = .next t ∧ LaneResult s t a (np a) rest ∧ moved t a) ∧
    (∃ t, exec (.xStept rest) s = .next t ∧ LaneResult s t .x (np .x) rest ∧ moved t .x) ∧
    (∃ t, exec (.yStept rest) s = .next t ∧ LaneResult s t .y (np .y) rest ∧ moved t .y) ∧
    (∃ t, exec (.zStept rest) s = .next t ∧ LaneResult s t .z (np .z) rest ∧ moved t .z)

/-- `41_single_axis_stepper.md` section 4, the step in complement order, in each of its four rows: the lane ends at
`INVERT2(FORWARD(NEXTINDEX(i)))`, and its position is one place back; the rest of the word runs too
(`30_encoding.md` section 2; log entry 6 DEDUCED). -/
def Obligations.ComplementOrderRowsMoveTheLaneBack : Prop :=
  ∀ (rest : Byte) (s : State),
    let np := fun a => invert2 (forward (nextIndex (indexInt (axIndex s.config s.curPhase a))))
    let moved := fun (t : State) a => axIndex s.config t.curPhase a = axIndex s.config s.curPhase a - 1
    (∀ a, ∃ t, exec (.axStepc a rest) s = .next t ∧ LaneResult s t a (np a) rest ∧ moved t a) ∧
    (∃ t, exec (.xStepc rest) s = .next t ∧ LaneResult s t .x (np .x) rest ∧ moved t .x) ∧
    (∃ t, exec (.yStepc rest) s = .next t ∧ LaneResult s t .y (np .y) rest ∧ moved t .y) ∧
    (∃ t, exec (.zStepc rest) s = .next t ∧ LaneResult s t .z (np .z) rest ∧ moved t .z)

/-- `30_encoding.md` section 2: the rows are lanes of one word, not alternatives: under every reading the instruction a word
decodes to has the effect of the whole word's `CONVERT` (log entry 6 DEDUCED). -/
def Obligations.EveryReadingRunsTheWholeWord : Prop :=
  ∀ (s : State) (r : Reading) (w : Byte), exec (decodeAs s.config r w) s = exec (decode w) s

/-- `60_exceptions.md` section 1 and `43_converter.md` section 1: one outcome, the next state, for every state and every
instruction; no terminal state. -/
def Obligations.EveryStepGoesOn : Prop :=
  (∀ s : State, Safe s) ∧ ∀ (i : Instr) (s : State), Completes (exec i s)

/-! ## Decoding and encoding -/

/-- Decode and encode agree, for every well-formed instruction of every row under every configuration
(`30_encoding.md` section 2). -/
def Obligations.DecodeInvertsEncode : Prop :=
  ∀ (c : Config) (i : Instr), i.wf c = true → decodeAs c i.reading (encodeAt c i) = i

/-- The other direction: every word, under every reading, decodes to a well-formed instruction of that reading, whose
encoding is the word (`30_encoding.md` section 2). -/
def Obligations.EncodeInvertsDecode : Prop :=
  ∀ (c : Config) (r : Reading) (w : Byte),
    encodeAt c (decodeAs c r w) = w ∧ (decodeAs c r w).wf c = true ∧ (decodeAs c r w).reading = r

/-- `30_encoding.md` section 2 (marked derived there): under `SLOTS_REF` every word matches the `CONVERT` row, exactly one row
of each axis, and exactly one row of each axis's field, and it is the row the decoder names. -/
def Obligations.EveryWordMatchesOneRowPerReading : Prop :=
  ∀ (r : Reading) (w : Byte),
    ((rowsFor r).filter (fun row => row.matchesWord r w)).map OpRow.mnemonic = [(decodeAs Config.reference r w).mnemonic]

/-- `95_test_vectors.md` section 2.6, three words written out from the encoding (Z Y X direction, Z Y X step, pass-through),
and `30_encoding.md` section 4: decoding a byte never rejects it. -/
def Obligations.SpecWordsDecode : Prop :=
  decodeAs Config.reference (.lane .x) 0b01011100 = .xStepc 0b01011000 ∧
  decodeAs Config.reference (.lane .y) 0b01011100 = .yStept 0b00010100 ∧
  decodeAs Config.reference (.lane .z) 0b11100000 = .zIdle true 0b01100000 ∧
  decodeAs Config.reference (.field .z) 0b10010100 = .axStept .z 0b00000100 ∧
  ∀ w : Byte, decodeBytes [w] = .ok (.convert w)

/-! ## The step -/

/-- A step runs the decoded instruction: at an edge with `rst = 0` and `tick = 1` the step is the meaning of the word's
instruction, on the state with that edge taken off the input (`43_converter.md` section 1; log entry 4 DESIGN CHOICE). -/
def Obligations.StepRunsTheDecodedWord : Prop :=
  ∀ (s : State) (e : Edge) (rest : List Edge), s.edges = e :: rest → e.rst = false → e.tick = true →
    step s = exec (decode e.sdIn) { s with edges := rest }

/-- `60_exceptions.md` section 3: a reset request wins over a conversion request at the same edge and the word is dropped
(the spec's decision D10; log entry 9). -/
def Obligations.ResetWinsOverTick : Prop :=
  ∀ (s : State) (e : Edge) (rest : List Edge), s.edges = e :: rest → e.rst = true →
    step s = .next { s with curPhase := 0x00, edges := rest }

/-- `43_converter.md` section 1: at an edge with neither request nothing changes (the spec's decision D9); the same where no
edge is listed (log entry 5 DESIGN CHOICE). -/
def Obligations.NoRequestChangesNothing : Prop :=
  (∀ (s : State) (e : Edge) (rest : List Edge), s.edges = e :: rest → e.rst = false → e.tick = false →
    step s = .next { s with edges := rest }) ∧
  (∀ s : State, s.edges = [] → step s = .next s)

/-- The word placed for the next step is the one that runs, from any state, and it is the word the decoder reads
(log entry 8 DESIGN CHOICE). -/
def Obligations.FetchWordRunsNext : Prop :=
  ∀ (s : State) (nbits w : Nat), nbits ≤ 8 →
    ∃ i, decodeTableWord nbits w = some i ∧ step (s.withFetchWord nbits w) = exec i s

/-- `10_state.md` section 1: the register is written by exactly two events: a conversion, with the byte it returns, and a
reset, with 0; nothing writes the configuration. That a step takes one edge of the input is the model's choice (log entries 4
and 5, DESIGN CHOICE); that a conversion needs `tick` is `43_converter.md` section 1 (the spec's decision D9), and that `rst`
excludes it is `60_exceptions.md` section 3 (the spec's decision D10; log entry 9, DESIGN CHOICE). -/
def Obligations.RegisterHasTwoWriters : Prop :=
  ∀ s t : State, step s = .next t →
    t.config = s.config ∧ t.edges = s.edges.tail ∧
    (t.curPhase = s.curPhase ∨
      ∃ e, s.edges.head? = some e ∧
        ((e.rst = true ∧ t.curPhase = 0x00) ∨
          (e.rst = false ∧ e.tick = true ∧ t.curPhase = composite s.config e.sdIn s.curPhase)))

/-- An invariant (`41_single_axis_stepper.md` section 5, the only fixed point): an axis that is at phase 0 and that no pending
word steps is at phase 0 after the step too, and still no pending word steps it. The pending words are the edges of log
entry 4 (DESIGN CHOICE). -/
def Obligations.RestingAxisKeepsResting : Prop :=
  ∀ (s t : State) (a : Axis), AxisRests s a → step s = .next t → AxisRests t a

/-- An invariant (`42_multi_axis_compositor.md` section 2, pass-through): while no word to come sets a pass-through bit, no
step sets one in the register. The words to come are the edges of log entry 4 (DESIGN CHOICE). -/
def Obligations.QuietPassThroughStaysQuiet : Prop :=
  ∀ s t : State, PassThroughQuiet s → step s = .next t → PassThroughQuiet t

/-- The two invariants hold in the reset state of every configuration. That the register is 0x00, hence every axis at phase 0
and every pass-through bit 0, is `70_reset_and_hazards.md` section 1; that no word to come steps an axis or sets a pass-through
bit is because the reset state lists no edge, which is the model's choice (log entry 4, DESIGN CHOICE). -/
def Obligations.ResetMeetsTheInvariants : Prop :=
  ∀ c : Config, PassThroughQuiet (State.resetAt c) ∧ ∀ a, AxisRests (State.resetAt c) a

/-! ## The configuration -/

/-- `00_scope.md` section 3: a configuration is built exactly when the six positions are in 0 to 7 and pairwise different, and
the machine then starts in its reset state with its input; otherwise it is refused by name (the spec's decision D13). -/
def Obligations.IllFormedSlotsRefused : Prop :=
  ∀ (slots : Slots) (input : List Edge),
    let good := (∀ a, (slots.slot a).stepBit < 8 ∧ (slots.slot a).dirBit < 8 ∧ (slots.slot a).stepBit ≠ (slots.slot a).dirBit) ∧
      ∀ a b, a ≠ b → (slots.slot a).stepBit ≠ (slots.slot b).stepBit ∧ (slots.slot a).stepBit ≠ (slots.slot b).dirBit ∧
        (slots.slot a).dirBit ≠ (slots.slot b).dirBit
    (good → ∃ c : Config, c.slots = slots ∧ buildConfig slots = .ok c ∧
      startUp slots input = .next { curPhase := 0x00, config := c, edges := input }) ∧
    (¬ good → buildConfig slots = .error .illFormedSlots ∧ startUp slots input = .refused (.reason .illFormedSlots))

/-! ## Runs -/

/-- The run function (`43_converter.md` section 1, `00_scope.md` section 5): the machine run from the reset state of any
configuration over a list of conversions ends, without a fault or a refusal, with the register `s_n`, and after its first
`k` conversions the register is the `k`-th output. That the conversions are edges pending in the state is the model's choice
(log entry 4, DESIGN CHOICE). -/
def Obligations.MachineRunIsTheRunFunction : Prop :=
  ∀ (c : Config) (ws : List Byte),
    Host.Core.run core ws.length { curPhase := 0x00, config := c, edges := ws.map tickEdge } =
      .next { curPhase := runFinal c ws 0x00, config := c, edges := [] } ∧
    (runOutputs c ws 0x00).length = ws.length ∧
    ∀ k, k < ws.length → ∃ t : State,
      Host.Core.run core (k + 1) { curPhase := 0x00, config := c, edges := ws.map tickEdge } = .next t ∧
      (runOutputs c ws 0x00)[k]? = some t.phOut

/-- `43_converter.md` section 1 (marked derived there): the outputs depend on the register only through its six slot bits. -/
def Obligations.OutputsDependOnSlotBitsOnly : Prop :=
  ∀ (c : Config) (ws : List Byte) (cur cur' : Byte), agreeOnSlots c cur cur' → runOutputs c ws cur = runOutputs c ws cur'

/-- R113, the first literal scenario, under `SLOTS_REF`: repeated `convert(28)` from 0 gives 28, 252, 224, 0 and repeats for
ever; the word is `X.STEPC Y.STEPC Z.STEPC`, and each axis goes through the phases 2, 3, 1, 0. -/
def Obligations.ScenarioAllAxesComplementOrder : Prop :=
  (∀ k : Nat, runOutputs Config.reference (List.replicate (4 * k) 28) 0 =
    (List.replicate k ([28, 252, 224, 0] : List Byte)).flatten) ∧
  (decodeAs Config.reference (.lane .x) 28).mnemonic = "X.STEPC" ∧
  (decodeAs Config.reference (.lane .y) 28).mnemonic = "Y.STEPC" ∧
  (decodeAs Config.reference (.lane .z) 28).mnemonic = "Z.STEPC" ∧
  ∀ a, ([28, 252, 224, 0] : List Byte).map (fun b => axPhase Config.reference b a) = [2, 3, 1, 0]

/-- R114, the second literal scenario, under `SLOTS_REF`: repeated `convert(92)` from reset gives 84, 252, 168, 0 and repeats;
the word is `X.STEPC Y.STEPT Z.STEPC`; X and Z go through 2, 3, 1, 0 and Y through 1, 3, 2, 0. -/
def Obligations.ScenarioAxisYReversed : Prop :=
  (∀ k : Nat, runOutputs Config.reference (List.replicate (4 * k) 92) State.reset.curPhase =
    (List.replicate k ([84, 252, 168, 0] : List Byte)).flatten) ∧
  (decodeAs Config.reference (.lane .x) 92).mnemonic = "X.STEPC" ∧
  (decodeAs Config.reference (.lane .y) 92).mnemonic = "Y.STEPT" ∧
  (decodeAs Config.reference (.lane .z) 92).mnemonic = "Z.STEPC" ∧
  ([84, 252, 168, 0] : List Byte).map (fun b => axPhase Config.reference b .x) = [2, 3, 1, 0] ∧
  ([84, 252, 168, 0] : List Byte).map (fun b => axPhase Config.reference b .y) = [1, 3, 2, 0] ∧
  ([84, 252, 168, 0] : List Byte).map (fun b => axPhase Config.reference b .z) = [2, 3, 1, 0]

/-- `10_state.md` section 5 (marked derived there): every byte is a reachable value of the register, under every
configuration, by two conversions from reset (pending as edges, log entry 4, DESIGN CHOICE). -/
def Obligations.EveryRegisterValueIsReachable : Prop :=
  ∀ (c : Config) (b : Byte), ∃ w1 w2 : Byte,
    Host.Core.run core 2 { curPhase := 0x00, config := c, edges := [tickEdge w1, tickEdge w2] } =
      .next { curPhase := b, config := c, edges := [] }

/-- The motion claim, with the producer's duty as a named premise (`70_reset_and_hazards.md` section 3;
`41_single_axis_stepper.md` section 5): if the calls deliver exactly the intended steps of an axis, its position moves by
their net count round the cycle of four. -/
def Obligations.DeliveredStepsMoveTheAxis : Prop :=
  ∀ (c : Config) (a : Axis) (intended : List Bool) (calls : List Byte) (cur : Byte), deliversSteps c a intended calls →
    position c (runFinal c calls cur) a = (position c cur a + netPlaces intended) % 4

/-- The companion count (`70_reset_and_hazards.md` section 3): under the same duty the phase of the axis advances exactly once
for each intended step. -/
def Obligations.OnePhaseAdvancePerIntendedStep : Prop :=
  ∀ (c : Config) (a : Axis) (intended : List Bool) (calls : List Byte) (cur : Byte), deliversSteps c a intended calls →
    phaseAdvances c a calls cur = intended.length

/-- `43_converter.md` section 1 and `70_reset_and_hazards.md` section 3: a conversion is not idempotent, and one output does
not tell a step from an idle call. -/
def Obligations.OneOutputDoesNotTellTheInput : Prop :=
  (∃ w s : Byte, composite Config.reference w (composite Config.reference w s) ≠ composite Config.reference w s) ∧
  ∀ (c : Config) (a : Axis) (w w' s : Byte), cmdField c w a = 0b11 → axPhase c s a = 2 → stepFlag c w' a = false →
    axPhase c (composite c w s) a = axPhase c (composite c w' s) a

/-! ## Several converters -/

/-- `60_exceptions.md` section 6: an event on one instance has no effect on another, and is a step of that instance. -/
def Obligations.InstancesAreIndependent : Prop :=
  ∀ (bank : List State) (k : Nat),
    (stepInstance k bank).length = bank.length ∧
    (∀ j, j ≠ k → (stepInstance k bank)[j]? = bank[j]?) ∧
    ∀ s t : State, bank[k]? = some s → step s = .next t → (stepInstance k bank)[k]? = some t
end

