-- ==== Sys2Proof/Laws/Slots.lean ====
section
/-! SUPPORT. What a checked configuration guarantees, and the bits of a slot: gather, scatter, and the byte they determine. -/

namespace Sys2Proof

/-- The six positions of a checked configuration are in 0 to 7. -/
theorem Config.positions_lt (c : Config) (a : Axis) : (c.slot a).stepBit < 8 ∧ (c.slot a).dirBit < 8 := by
  obtain ⟨⟨⟨xs, xd⟩, ⟨ys, yd⟩, ⟨zs, zd⟩⟩, h⟩ := c
  simp [Slots.wf, Slots.positions] at h
  cases a <;> simp [Config.slot, Slots.slot] <;> omega

/-- The two positions of one slot differ. -/
theorem Config.step_ne_dir (c : Config) (a : Axis) : (c.slot a).stepBit ≠ (c.slot a).dirBit := by
  obtain ⟨⟨⟨xs, xd⟩, ⟨ys, yd⟩, ⟨zs, zd⟩⟩, h⟩ := c
  simp [Slots.wf, Slots.positions] at h
  cases a <;> simp [Config.slot, Slots.slot] <;> omega

/-- The slots of two axes share no position (R9). -/
theorem Config.slots_disjoint (c : Config) {a b : Axis} (hab : a ≠ b) :
    (c.slot a).stepBit ≠ (c.slot b).stepBit ∧ (c.slot a).stepBit ≠ (c.slot b).dirBit ∧
    (c.slot a).dirBit ≠ (c.slot b).stepBit ∧ (c.slot a).dirBit ≠ (c.slot b).dirBit := by
  obtain ⟨⟨⟨xs, xd⟩, ⟨ys, yd⟩, ⟨zs, zd⟩⟩, h⟩ := c
  simp [Slots.wf, Slots.positions] at h
  cases a <;> cases b <;> first | exact absurd rfl hab | (simp [Config.slot, Slots.slot]; omega)

namespace Machine

theorem getLsbD_bitByte (b : Bool) (n : Nat) : (bitByte b).getLsbD n = (b && decide (n = 0)) := by
  cases b
  · simp [bitByte]
  · simp only [bitByte, if_true, Bool.true_and]
    rw [show (1 : Byte) = 1#8 from rfl, BitVec.getLsbD_one]
    simp

/-- `AXIS_MASK` is `STEP_MASK` and `DIR_MASK` together (R58). -/
theorem axisMask_eq (c : Config) : axisMask c = allStepMask c ||| allDirMask c := by
  simp only [axisMask, slotMask, allStepMask, allDirMask]
  ac_rfl

/-- Every bit of a scatter (R95): the two positions from the 2-bit value, every other bit as it was. -/
theorem getLsbD_scatter (r : Byte) {sb db : Nat} (p : BitVec 2) (hne : sb ≠ db) {n : Nat} (hn : n < 8) :
    (scatter r sb db p).getLsbD n =
      if n = sb then p.getLsbD 1 else if n = db then p.getLsbD 0 else r.getLsbD n := by
  have one (k : Nat) : (1#8 <<< k).getLsbD n = decide (n = k) := by
    rw [BitVec.getLsbD_shiftLeft, BitVec.getLsbD_one]
    by_cases h : n = k
    · subst h; simp [hn]
    · by_cases h2 : n < k
      · simp [h, h2]
      · have : n - k ≠ 0 := by omega
        simp [h, h2, this]
  have byte (b : Bool) (k : Nat) : (bitByte b <<< k).getLsbD n = (b && decide (n = k)) := by
    rw [BitVec.getLsbD_shiftLeft, getLsbD_bitByte]
    by_cases h : n = k
    · subst h; simp [hn]
    · by_cases h2 : n < k
      · simp [h, h2]
      · have : n - k ≠ 0 := by omega
        simp [h, h2, this]
  simp only [scatter, BitVec.getLsbD_or, BitVec.getLsbD_and, BitVec.getLsbD_not, one, byte, bit, hn]
  by_cases h1 : n = sb
  · subst h1; simp [hne]
  · by_cases h2 : n = db
    · subst h2; simp [h1]
    · simp [h1, h2]

theorem getLsbD_gather_one (v : Byte) (sb db : Nat) : (gather v sb db).getLsbD 1 = v.getLsbD sb := by
  rw [gather, bit, bit, BitVec.getLsbD_append]
  simp only [Nat.lt_irrefl, Nat.sub_self]
  cases v.getLsbD sb <;> rfl

theorem getLsbD_gather_zero (v : Byte) (sb db : Nat) : (gather v sb db).getLsbD 0 = v.getLsbD db := by
  rw [gather, bit, bit, BitVec.getLsbD_append]
  simp only [Nat.zero_lt_one]
  cases v.getLsbD db <;> rfl

/-- Two 2-bit values with the same two bits are equal. -/
theorem twoBit_ext {p q : BitVec 2} (h1 : p.getLsbD 1 = q.getLsbD 1) (h0 : p.getLsbD 0 = q.getLsbD 0) : p = q := by
  apply BitVec.eq_of_getLsbD_eq
  intro i hi
  obtain rfl | rfl : i = 0 ∨ i = 1 := by omega
  · exact h0
  · exact h1

/-- What one conversion writes for a slot is what the next one reads from it (`30_encoding.md` R51). -/
theorem gather_scatter (r : Byte) {sb db : Nat} (p : BitVec 2) (hs : sb < 8) (hd : db < 8) (hne : sb ≠ db) :
    gather (scatter r sb db p) sb db = p := by
  apply twoBit_ext
  · rw [getLsbD_gather_one, getLsbD_scatter r p hne hs]; simp
  · rw [getLsbD_gather_zero, getLsbD_scatter r p hne hd]; simp [Ne.symm hne]

/-- A slot elsewhere reads as before. -/
theorem gather_scatter_other (r : Byte) {sb db sb' db' : Nat} (p : BitVec 2) (hne : sb ≠ db) (hs : sb' < 8) (hd : db' < 8)
    (h1 : sb' ≠ sb) (h2 : sb' ≠ db) (h3 : db' ≠ sb) (h4 : db' ≠ db) :
    gather (scatter r sb db p) sb' db' = gather r sb' db' := by
  apply twoBit_ext
  · simp only [getLsbD_gather_one]; rw [getLsbD_scatter r p hne hs]; simp [h1, h2]
  · simp only [getLsbD_gather_zero]; rw [getLsbD_scatter r p hne hd]; simp [h3, h4]

@[simp] theorem axPhase_putSlot_self (c : Config) (r : Byte) (a : Axis) (p : Phase) : axPhase c (putSlot c r a p) a = p :=
  gather_scatter r p (c.positions_lt a).1 (c.positions_lt a).2 (c.step_ne_dir a)

theorem axPhase_putSlot_ne (c : Config) (r : Byte) {a b : Axis} (h : b ≠ a) (p : Phase) :
    axPhase c (putSlot c r a p) b = axPhase c r b := by
  obtain ⟨h1, h2, h3, h4⟩ := c.slots_disjoint h
  exact gather_scatter_other r p (c.step_ne_dir a) (c.positions_lt b).1 (c.positions_lt b).2 h1 h2 h3 h4

/-- The second of two writes of one slot wins. -/
@[simp] theorem putSlot_putSlot (c : Config) (r : Byte) (a : Axis) (p q : Phase) :
    putSlot c (putSlot c r a p) a q = putSlot c r a q := by
  apply BitVec.eq_of_getLsbD_eq
  intro n hn
  simp only [putSlot]
  rw [getLsbD_scatter _ q (c.step_ne_dir a) hn, getLsbD_scatter _ p (c.step_ne_dir a) hn,
    getLsbD_scatter _ q (c.step_ne_dir a) hn]
  split
  · rfl
  · split <;> rfl

/-- Writing back what a slot holds changes nothing. -/
@[simp] theorem putSlot_axPhase (c : Config) (r : Byte) (a : Axis) : putSlot c r a (axPhase c r a) = r := by
  apply BitVec.eq_of_getLsbD_eq
  intro n hn
  simp only [putSlot, axPhase]
  rw [getLsbD_scatter _ _ (c.step_ne_dir a) hn, getLsbD_gather_one, getLsbD_gather_zero]
  split
  · simp_all
  · split
    · simp_all
    · rfl

/-- A bit outside axis `a`'s slot is kept. -/
theorem getLsbD_putSlot_outside (c : Config) (r : Byte) (a : Axis) (p : Phase) {n : Nat} (hn : n < 8) (h : ¬ inSlot c a n) :
    (putSlot c r a p).getLsbD n = r.getLsbD n := by
  simp only [inSlot, not_or] at h
  simp only [putSlot]
  rw [getLsbD_scatter r p (c.step_ne_dir a) hn]
  simp [h.1, h.2]

/-- The command field is the same gather of a slot as the phase, from another byte (R28, R54). -/
theorem cmdField_eq_axPhase (c : Config) (w : Byte) (a : Axis) : cmdField c w a = axPhase c w a := rfl

@[simp] theorem bit_cmdField_one (c : Config) (w : Byte) (a : Axis) : bit (cmdField c w a) 1 = stepFlag c w a :=
  getLsbD_gather_one w _ _

@[simp] theorem bit_cmdField_zero (c : Config) (w : Byte) (a : Axis) : bit (cmdField c w a) 0 = dirFlag c w a :=
  getLsbD_gather_zero w _ _

/-- The three slots and the pass-through positions determine a byte (R102). -/
theorem byte_ext (c : Config) {u v : Byte} (hs : ∀ a, axPhase c u a = axPhase c v a)
    (hp : ∀ n, passThrough c n → u.getLsbD n = v.getLsbD n) : u = v := by
  apply BitVec.eq_of_getLsbD_eq
  intro n hn
  by_cases h : ∃ a, inSlot c a n
  · obtain ⟨a, h | h⟩ := h
    · rw [h, ← getLsbD_gather_one u _ (c.slot a).dirBit, ← getLsbD_gather_one v _ (c.slot a).dirBit]
      exact congrArg (fun p => BitVec.getLsbD p 1) (hs a)
    · rw [h, ← getLsbD_gather_zero u (c.slot a).stepBit, ← getLsbD_gather_zero v (c.slot a).stepBit]
      exact congrArg (fun p => BitVec.getLsbD p 0) (hs a)
  · exact hp n ⟨hn, fun a ha => h ⟨a, ha⟩⟩

end Machine

end Sys2Proof
end

