-- ==== Sys2Proof/Laws/Compositor.lean ====
section
/-! SUPPORT. One lemma for each shared operation of the compositor: what an assembled byte holds, and `COMPOSITE` as one. -/

namespace Sys2Proof.Machine

@[simp] theorem axPhase_assemble (c : Config) (f : Axis → Phase) (w : Byte) (a : Axis) : axPhase c (assemble c f w) a = f a := by
  cases a <;> simp [assemble, axPhase_putSlot_ne]

/-- The bits in no slot come from `w` (R103). -/
theorem getLsbD_assemble_passThrough (c : Config) (f : Axis → Phase) (w : Byte) {n : Nat} (h : passThrough c n) :
    (assemble c f w).getLsbD n = w.getLsbD n := by
  simp only [assemble]
  rw [getLsbD_putSlot_outside c _ _ _ h.1 (h.2 _), getLsbD_putSlot_outside c _ _ _ h.1 (h.2 _),
    getLsbD_putSlot_outside c _ _ _ h.1 (h.2 _)]

/-- One application of `SETAXISPHASE` puts the axis's next phase into its slot (R92, R86). -/
theorem applyAxis_eq (c : Config) (w s : Byte) (a : Axis) (r : Byte) :
    applyAxis c w s a r = putSlot c r a (axNext (cmdField c w a) (axPhase c s a)) := by
  simp [applyAxis, setAxisPhase, putSlot, axNext, axPhase, stepFlag, dirFlag]

/-- `COMPOSITE` is the assembly of the three lanes' next phases over the input (R102). -/
theorem composite_eq_assemble (c : Config) (w s : Byte) :
    composite c w s = assemble c (fun a => axNext (cmdField c w a) (axPhase c s a)) w := by
  simp [composite, assemble, applyAxis_eq]

/-- A command whose step flag is 0 gives phase 0 (R81). -/
theorem axNext_idle {cmd : CmdField} (p : Phase) (h : bit cmd 1 = false) : axNext cmd p = 0 := by
  simp [axNext, nextPhase, h]

/-- The two readings of a command field are inverse to each other (R55). -/
@[simp] theorem encodeField_decodeField (f : CmdField) : encodeField (decodeField f) = f := by
  revert f; decide

@[simp] theorem decodeField_encodeField (cmd : AxisCmd) : decodeField (encodeField cmd) = cmd := by
  cases cmd with
  | idle dir => cases dir <;> rfl
  | stept => rfl
  | stepc => rfl

end Sys2Proof.Machine
end

