-- ==== Sys2Proof/Laws/PerInstr.lean ====
section
/-! SUPPORT. Statements made instruction by instruction. `MatchesRow`: the word of an instruction matches the mask and value
of its own row of the opcode table (`30_encoding.md` R55, R56), under `SLOTS_REF`. -/

namespace Sys2Proof.Laws.MatchesRow

/-- The instruction's word matches its own row of `spec/opcode_table.json`. -/
def Statement (i : Instr) : Prop :=
  ∃ row ∈ rowsFor i.reading, row.mnemonic = i.mnemonic ∧ row.matchesWord i.reading (encode i) = true

/-- The field of an encoded lane row is the row's own field. -/
theorem cmdField_laneWord (c : Config) (a : Axis) (cmd : AxisCmd) (rest : Byte) :
    Machine.cmdField c (laneWord c a cmd rest) a = encodeField cmd :=
  Machine.axPhase_putSlot_self c rest a (encodeField cmd)

/-- A mask over one slot selects the slot's field: a word with field `f` at slot `(sb, db)` meets the scattered mask in
exactly the scattered field. -/
theorem scatter_and_scatter (r : Byte) {sb db : Nat} (hne : sb ≠ db) (f m : BitVec 2) :
    Machine.scatter r sb db f &&& Machine.scatter 0 sb db m = Machine.scatter 0 sb db (f &&& m) := by
  apply BitVec.eq_of_getLsbD_eq
  intro n hn
  rw [BitVec.getLsbD_and, Machine.getLsbD_scatter r f hne hn, Machine.getLsbD_scatter 0 m hne hn,
    Machine.getLsbD_scatter 0 (f &&& m) hne hn]
  by_cases h1 : n = sb
  · simp only [h1, if_true, BitVec.getLsbD_and]
  · by_cases h2 : n = db
    · simp only [h2, if_true, if_neg (Ne.symm hne), BitVec.getLsbD_and]
    · simp [h1, h2]

/-- A `W8` lane row: the word of the command meets the row's mask in the row's value. -/
theorem laneWord_and_mask (a : Axis) (cmd : AxisCmd) (rest : Byte) (m : BitVec 2) :
    laneWord Config.reference a cmd rest &&& Machine.putSlot Config.reference 0 a m =
      Machine.putSlot Config.reference 0 a (encodeField cmd &&& m) :=
  scatter_and_scatter rest (Config.reference.step_ne_dir a) (encodeField cmd) m

theorem convert (w : Byte) : Statement (.convert w) :=
  ⟨.w8 "CONVERT" 0x00 0x00, by simp [rowsFor, Instr.reading], rfl, by simp [OpRow.matchesWord, Instr.reading]⟩

theorem axIdle (a : Axis) (dir : Bool) (rest : Byte) : Statement (.axIdle a dir rest) :=
  ⟨.ax2 "AX.IDLE" 0b10 0b00, by simp [rowsFor, Instr.reading], rfl, by
    simp only [OpRow.matchesWord, Instr.reading, encode, encodeAt, cmdField_laneWord, decide_eq_true_eq]
    cases dir <;> rfl⟩

theorem axStept (a : Axis) (rest : Byte) : Statement (.axStept a rest) :=
  ⟨.ax2 "AX.STEPT" 0b11 0b11, by simp [rowsFor, Instr.reading], rfl, by
    simp only [OpRow.matchesWord, Instr.reading, encode, encodeAt, cmdField_laneWord, decide_eq_true_eq]
    rfl⟩

theorem axStepc (a : Axis) (rest : Byte) : Statement (.axStepc a rest) :=
  ⟨.ax2 "AX.STEPC" 0b11 0b10, by simp [rowsFor, Instr.reading], rfl, by
    simp only [OpRow.matchesWord, Instr.reading, encode, encodeAt, cmdField_laneWord, decide_eq_true_eq]
    rfl⟩

theorem xIdle (dir : Bool) (rest : Byte) : Statement (.xIdle dir rest) :=
  ⟨.w8 "X.IDLE" 0x04 0x00, by simp [rowsFor, Instr.reading], rfl,
    decide_eq_true ((laneWord_and_mask .x (.idle dir) rest 0b10).trans (by cases dir <;> rfl))⟩

theorem xStept (rest : Byte) : Statement (.xStept rest) :=
  ⟨.w8 "X.STEPT" 0x24 0x24, by simp [rowsFor, Instr.reading], rfl,
    decide_eq_true (laneWord_and_mask .x .stept rest 0b11)⟩

theorem xStepc (rest : Byte) : Statement (.xStepc rest) :=
  ⟨.w8 "X.STEPC" 0x24 0x04, by simp [rowsFor, Instr.reading], rfl,
    decide_eq_true (laneWord_and_mask .x .stepc rest 0b11)⟩

theorem yIdle (dir : Bool) (rest : Byte) : Statement (.yIdle dir rest) :=
  ⟨.w8 "Y.IDLE" 0x08 0x00, by simp [rowsFor, Instr.reading], rfl,
    decide_eq_true ((laneWord_and_mask .y (.idle dir) rest 0b10).trans (by cases dir <;> rfl))⟩

theorem yStept (rest : Byte) : Statement (.yStept rest) :=
  ⟨.w8 "Y.STEPT" 0x48 0x48, by simp [rowsFor, Instr.reading], rfl,
    decide_eq_true (laneWord_and_mask .y .stept rest 0b11)⟩

theorem yStepc (rest : Byte) : Statement (.yStepc rest) :=
  ⟨.w8 "Y.STEPC" 0x48 0x08, by simp [rowsFor, Instr.reading], rfl,
    decide_eq_true (laneWord_and_mask .y .stepc rest 0b11)⟩

theorem zIdle (dir : Bool) (rest : Byte) : Statement (.zIdle dir rest) :=
  ⟨.w8 "Z.IDLE" 0x10 0x00, by simp [rowsFor, Instr.reading], rfl,
    decide_eq_true ((laneWord_and_mask .z (.idle dir) rest 0b10).trans (by cases dir <;> rfl))⟩

theorem zStept (rest : Byte) : Statement (.zStept rest) :=
  ⟨.w8 "Z.STEPT" 0x90 0x90, by simp [rowsFor, Instr.reading], rfl,
    decide_eq_true (laneWord_and_mask .z .stept rest 0b11)⟩

theorem zStepc (rest : Byte) : Statement (.zStepc rest) :=
  ⟨.w8 "Z.STEPC" 0x90 0x10, by simp [rowsFor, Instr.reading], rfl,
    decide_eq_true (laneWord_and_mask .z .stepc rest 0b11)⟩

end Sys2Proof.Laws.MatchesRow
end

