-- ==== Sys2Proof/Laws/State.lean ====
section
/-! SUPPORT. One lemma per field per update of the state, all by `rfl`. -/

namespace Sys2Proof.Machine

@[simp] theorem writeCurPhase_curPhase (v : Byte) (s : State) : (writeCurPhase v s).curPhase = v := rfl
@[simp] theorem writeCurPhase_config (v : Byte) (s : State) : (writeCurPhase v s).config = s.config := rfl
@[simp] theorem writeCurPhase_edges (v : Byte) (s : State) : (writeCurPhase v s).edges = s.edges := rfl
@[simp] theorem readCurPhase_eq (s : State) : readCurPhase s = s.curPhase := rfl
@[simp] theorem phOut_eq (s : State) : s.phOut = s.curPhase := rfl

@[simp] theorem convertState_curPhase (w : Byte) (s : State) :
    (convertState w s).curPhase = composite s.config w s.curPhase := rfl
@[simp] theorem convertState_config (w : Byte) (s : State) : (convertState w s).config = s.config := rfl
@[simp] theorem convertState_edges (w : Byte) (s : State) : (convertState w s).edges = s.edges := rfl

@[simp] theorem laneState_config (a : Axis) (cmd : AxisCmd) (rule : Int → Phase) (rest : Byte) (s : State) :
    (laneState a cmd rule rest s).config = s.config := rfl
@[simp] theorem laneState_edges (a : Axis) (cmd : AxisCmd) (rule : Int → Phase) (rest : Byte) (s : State) :
    (laneState a cmd rule rest s).edges = s.edges := rfl

@[simp] theorem resetEvent_curPhase (s : State) : (resetEvent s).curPhase = 0 := rfl
@[simp] theorem resetEvent_config (s : State) : (resetEvent s).config = s.config := rfl
@[simp] theorem resetEvent_edges (s : State) : (resetEvent s).edges = s.edges := rfl

@[simp] theorem resetAt_curPhase (c : Config) : (State.resetAt c).curPhase = 0 := rfl
@[simp] theorem resetAt_config (c : Config) : (State.resetAt c).config = c := rfl
@[simp] theorem resetAt_edges (c : Config) : (State.resetAt c).edges = [] := rfl

@[simp] theorem withFetchWord_curPhase (s : State) (nbits w : Nat) : (s.withFetchWord nbits w).curPhase = s.curPhase := rfl
@[simp] theorem withFetchWord_config (s : State) (nbits w : Nat) : (s.withFetchWord nbits w).config = s.config := rfl
@[simp] theorem withFetchWord_edges (s : State) (nbits w : Nat) :
    (s.withFetchWord nbits w).edges = tickEdge (tableByte nbits w) :: s.edges := rfl

/-- Two states with equal fields are equal. -/
theorem State.ext_fields {s t : State} (h1 : s.curPhase = t.curPhase) (h2 : s.config = t.config)
    (h3 : s.edges = t.edges) : s = t := by
  cases s; cases t; simp_all

end Sys2Proof.Machine
end

