-- ==== Sys2Proof/Laws/Step.lean ====
section
/-! SUPPORT. What a step can do, said once; what each meaning answers. -/

namespace Sys2Proof.Machine

@[simp] theorem clockEdge_nil (conv : Byte → State → Host.Outcome State Fault Refusal) (s : State) (h : s.edges = []) :
    clockEdge conv s = .next s := by
  simp [clockEdge, h]

theorem clockEdge_cons (conv : Byte → State → Host.Outcome State Fault Refusal) (s : State) (e : Edge) (rest : List Edge)
    (h : s.edges = e :: rest) :
    clockEdge conv s = if e.rst then .next (resetEvent { s with edges := rest })
      else if e.tick then conv e.sdIn { s with edges := rest } else .next { s with edges := rest } := by
  simp [clockEdge, h]

/-- The four cases of a step: no edge, a reset edge, a conversion edge, an edge without a request. -/
theorem step_cases {s t : State} (h : step s = .next t) :
    (s.edges = [] ∧ t = s) ∨
    (∃ e rest, s.edges = e :: rest ∧ e.rst = true ∧ t = resetEvent { s with edges := rest }) ∨
    (∃ e rest, s.edges = e :: rest ∧ e.rst = false ∧ e.tick = true ∧ t = convertState e.sdIn { s with edges := rest }) ∨
    (∃ e rest, s.edges = e :: rest ∧ e.rst = false ∧ e.tick = false ∧ t = { s with edges := rest }) := by
  cases he : s.edges with
  | nil =>
    rw [step, clockEdge_nil _ _ he] at h
    exact .inl ⟨rfl, by cases h; rfl⟩
  | cons e rest =>
    rw [step, clockEdge_cons _ _ e rest he] at h
    cases hr : e.rst with
    | true =>
      rw [hr] at h
      exact .inr (.inl ⟨e, rest, rfl, hr, by cases h; rfl⟩)
    | false =>
      cases ht : e.tick with
      | true =>
        rw [hr, ht] at h
        exact .inr (.inr (.inl ⟨e, rest, rfl, hr, ht, by cases h; rfl⟩))
      | false =>
        rw [hr, ht] at h
        exact .inr (.inr (.inr ⟨e, rest, rfl, hr, ht, by cases h; rfl⟩))

/-- The register after a lane row: the assembly of its lane's phase and the word's other lanes. -/
theorem laneState_curPhase (a : Axis) (cmd : AxisCmd) (rule : Int → Phase) (rest : Byte) (s : State) :
    (laneState a cmd rule rest s).curPhase =
      laneComposite s.config a (rule (indexInt (axIndex s.config s.curPhase a))) (laneWord s.config a cmd rest) s.curPhase := rfl

/-- The lane the row names holds the phase the row's rule gives (R81 to R83). -/
theorem axPhase_laneState_self (a : Axis) (cmd : AxisCmd) (rule : Int → Phase) (rest : Byte) (s : State) :
    axPhase s.config (laneState a cmd rule rest s).curPhase a = rule (indexInt (axIndex s.config s.curPhase a)) := by
  simp [laneState_curPhase, laneComposite]

/-- A lane the row does not name follows its own command in the row's other bits. -/
theorem axPhase_laneState_ne {a b : Axis} (h : b ≠ a) (cmd : AxisCmd) (rule : Int → Phase) (rest : Byte) (s : State) :
    axPhase s.config (laneState a cmd rule rest s).curPhase b =
      axNext (cmdField s.config rest b) (axPhase s.config s.curPhase b) := by
  simp [laneState_curPhase, laneComposite, h, laneWord, cmdField_eq_axPhase, axPhase_putSlot_ne]

/-- The pass-through bits after a lane row are those of the row's other bits. -/
theorem getLsbD_laneState_passThrough (a : Axis) (cmd : AxisCmd) (rule : Int → Phase) (rest : Byte) (s : State) {n : Nat}
    (h : passThrough s.config n) : (laneState a cmd rule rest s).curPhase.getLsbD n = rest.getLsbD n := by
  rw [laneState_curPhase, laneComposite, getLsbD_assemble_passThrough _ _ _ h]
  exact getLsbD_putSlot_outside _ _ _ _ h.1 (h.2 a)

/-- A configuration is built when its check passes. -/
theorem buildConfig_ok {slots : Slots} (h : slots.wf = true) : buildConfig slots = .ok { slots := slots, wf := h } := by
  simp [buildConfig, h]

/-- A configuration is refused by name when its check fails. -/
theorem buildConfig_error {slots : Slots} (h : slots.wf = false) : buildConfig slots = .error .illFormedSlots := by
  simp [buildConfig, h]

/-- Start-up refuses for the block's one reason and no other (R133). -/
theorem startUp_refused {slots : Slots} {input : List Edge} {r : Refusal} (h : startUp slots input = .refused r) :
    r = .reason .illFormedSlots ∧ slots.wf = false := by
  cases hw : slots.wf with
  | true => simp [startUp, buildConfig_ok hw] at h
  | false => simp_all [startUp, buildConfig_error hw]

end Sys2Proof.Machine
end

