-- ==== Sys2Proof/Tests/Slice0.lean ====
section
/-! SUPPORT. The author's own tests. Expected values are taken from `spec/` (the section is named), never from the model.
`witness_<Name>`: concrete values that meet the hypotheses of `Obligations.<Name>` together. -/

namespace Sys2Proof.Tests

open Sys2Proof Sys2Proof.Machine

/-- A state under `SLOTS_REF` with a given register and input. -/
def at_ (cur : Byte) (edges : List Edge) : State :=
  { curPhase := cur, config := Config.reference, edges := edges }

/-- Another well-formed wiring, `95_test_vectors.md` section 2.10: X (0,1), Y (2,3), Z (4,5). -/
def lowConfig : Config :=
  { slots := { x := ⟨0, 1⟩, y := ⟨2, 3⟩, z := ⟨4, 5⟩ }, wf := rfl }

/-- The second other wiring of section 2.10: X (7,0), Y (6,1), Z (5,2). -/
def mirrorConfig : Config :=
  { slots := { x := ⟨7, 0⟩, y := ⟨6, 1⟩, z := ⟨5, 2⟩ }, wf := rfl }

/-! ### WellFormed smoke: an ill-formed term for each check -/

/-- Section 2.10: position 2 twice; stepBit equal to dirBit; a position outside 0 to 7. -/
theorem test_slots_shared_position : ({ slotsRef with y := ⟨2, 6⟩ } : Slots).wf = false := by decide
theorem test_slots_same_step_dir : ({ slotsRef with x := ⟨2, 2⟩ } : Slots).wf = false := by decide
theorem test_slots_out_of_range : ({ slotsRef with x := ⟨2, 8⟩ } : Slots).wf = false := by decide
theorem test_slots_reference : slotsRef.wf = true := by decide

theorem test_startUp_refused : startUp { slotsRef with x := ⟨2, 8⟩ } [] = .refused (.reason .illFormedSlots) := rfl
theorem test_startUp_reference : startUp slotsRef [] = .next State.reset := rfl

theorem test_wf_axIdle : (Instr.axIdle .y false 0x08).wf Config.reference = false := by decide
theorem test_wf_axStept : (Instr.axStept .z 0x80).wf Config.reference = false := by decide
theorem test_wf_axStepc : (Instr.axStepc .x 0x20).wf Config.reference = false := by decide
theorem test_wf_xIdle : (Instr.xIdle true 0x20).wf Config.reference = false := by decide
theorem test_wf_xStept : (Instr.xStept 0x04).wf Config.reference = false := by decide
theorem test_wf_xStepc : (Instr.xStepc 0x24).wf Config.reference = false := by decide
theorem test_wf_yIdle : (Instr.yIdle false 0x40).wf Config.reference = false := by decide
theorem test_wf_yStept : (Instr.yStept 0x08).wf Config.reference = false := by decide
theorem test_wf_yStepc : (Instr.yStepc 0x48).wf Config.reference = false := by decide
theorem test_wf_zIdle : (Instr.zIdle true 0x10).wf Config.reference = false := by decide
theorem test_wf_zStept : (Instr.zStept 0x90).wf Config.reference = false := by decide
theorem test_wf_zStepc : (Instr.zStepc 0x80).wf Config.reference = false := by decide
theorem test_wf_free : (Instr.zStepc 0x6F).wf Config.reference = true := by decide

/-! ### Decoding: one written-out word for each row.
Bits 7 to 0: Z, Y, X direction; Z, Y, X step; pass-through (R48). Words from `95_test_vectors.md` section 2.6. -/

theorem test_decode_convert : decode 0b01011100 = .convert 0x5C := by decide
theorem test_decode_no_word : decodeBytes [] = .error .noWord := rfl
theorem test_decode_two_bytes : decodeBytes [0x1C, 0x1C] = .error .notOneByte := rfl
theorem test_decode_axIdle : decodeAs Config.reference (.field .x) 0b11100000 = .axIdle .x true 0b11000000 := by decide
theorem test_decode_axStept : decodeAs Config.reference (.field .z) 0b10010100 = .axStept .z 0b00000100 := by decide
theorem test_decode_axStepc : decodeAs Config.reference (.field .y) 0b00101100 = .axStepc .y 0b00100100 := by decide
theorem test_decode_xIdle : decodeAs Config.reference (.lane .x) 0b00000011 = .xIdle false 0b00000011 := by decide
theorem test_decode_xStept : decodeAs Config.reference (.lane .x) 0b00101100 = .xStept 0b00001000 := by decide
theorem test_decode_xStepc : decodeAs Config.reference (.lane .x) 0b01011100 = .xStepc 0b01011000 := by decide
theorem test_decode_yIdle : decodeAs Config.reference (.lane .y) 0b10010100 = .yIdle false 0b10010100 := by decide
theorem test_decode_yStept : decodeAs Config.reference (.lane .y) 0b01011100 = .yStept 0b00010100 := by decide
theorem test_decode_yStepc : decodeAs Config.reference (.lane .y) 0b00011100 = .yStepc 0b00010100 := by decide
theorem test_decode_zIdle : decodeAs Config.reference (.lane .z) 0b11100000 = .zIdle true 0b01100000 := by decide
theorem test_decode_zStept : decodeAs Config.reference (.lane .z) 0b11111111 = .zStept 0b01101111 := by decide
theorem test_decode_zStepc : decodeAs Config.reference (.lane .z) 0b01011100 = .zStepc 0b01001100 := by decide

/-! ### The pure functions (`95_test_vectors.md` sections 2.2, 2.4, 2.7, 2.8) -/

theorem test_nextIndex : [-10, -2, -1, 0, 1, 2, 3, 4, 5, 7, 255].map nextIndex = [0, 0, 0, 1, 2, 3, 0, 0, 0, 0, 0] := by decide
theorem test_nextPhase_complement : [-1, 0, 1, 2, 3, 4].map (nextPhase true false) = [3, 2, 0, 1, 3, 3] := by decide
theorem test_nextPhase_table : [-1, 0, 1, 2, 3, 4].map (nextPhase true true) = [0, 1, 3, 2, 0, 0] := by decide
theorem test_setAxisPhase_keeps_rest : setAxisPhase 0x24 0x24 0xFF 2 5 = 0xDF := by decide
theorem test_setAxisPhase_idle : setAxisPhase 0x00 0xFF 0xFF 3 6 = 0xB7 := by decide
theorem test_setAxisPhase_own_result : setAxisPhase 0x48 0x40 0x00 3 6 = 0x48 := by decide
theorem test_setAxisPhase_swapped_slot : setAxisPhase 0x02 0x01 0x02 1 0 = 0x00 := by decide
theorem test_composite_all_table : composite Config.reference 0xFF 0xFF = 0x1F := by decide
theorem test_composite_y_only : composite Config.reference 0xAA 0x55 = 0x02 := by decide
theorem test_composite_no_echo : composite Config.reference 0xE0 0x1C = 0x00 := by decide

/-- R58: the masks under `SLOTS_REF`, and its two readings of the document's words 28 and 92. -/
theorem test_masks : allStepMask Config.reference = 0x1C ∧ allDirMask Config.reference = 0xE0 ∧
    allStepMask Config.reference = 28 ∧ allStepMask Config.reference ||| dirMask Config.reference .y = 92 ∧
    axisMask Config.reference = 0xFC ∧ passMask Config.reference = 0x03 ∧
    [Axis.x, .y, .z].map (stepMask Config.reference) = [0x04, 0x08, 0x10] ∧
    [Axis.x, .y, .z].map (dirMask Config.reference) = [0x20, 0x40, 0x80] := by decide

/-- Section 2.10, the two other wirings. -/
theorem test_lowConfig : composite lowConfig 0x15 0x15 = 0x3F ∧ composite lowConfig 0xFF 0x00 = 0xEA := by decide
theorem test_mirrorConfig : composite mirrorConfig 0xE0 0x00 = 0xE0 ∧ composite mirrorConfig 0xE7 0xE0 = 0x00 := by decide

/-! ### The meanings, one step each (`95_test_vectors.md` sections 2.8, 2.9, programs P3, P4, P6, P8) -/

theorem test_convert : exec (.convert 0x1C) (at_ 0x1C []) = .next (at_ 0xFC []) := rfl
theorem test_convert_low : exec (.convert 0xFF) { at_ 0x00 [] with config := lowConfig } =
    .next { at_ 0xEA [] with config := lowConfig } := rfl
theorem test_axIdle : exec (.axIdle .x true 0x00) (at_ 0x24 []) = .next (at_ 0x00 []) := rfl
theorem test_axStept : exec (.axStept .z 0x04) (at_ 0x84 []) = .next (at_ 0xB4 []) := rfl
theorem test_axStepc : exec (.axStepc .x 0x90) (at_ 0xB4 []) = .next (at_ 0x30 []) := rfl
theorem test_xIdle : exec (.xIdle true 0x00) (at_ 0x20 []) = .next (at_ 0x00 []) := rfl
theorem test_xStept : exec (.xStept 0x00) (at_ 0x24 []) = .next (at_ 0x04 []) := rfl
theorem test_xStepc : exec (.xStepc 0x00) (at_ 0x24 []) = .next (at_ 0x20 []) := rfl
theorem test_yIdle : exec (.yIdle false 0x94) (at_ 0x84 []) = .next (at_ 0xB4 []) := rfl
theorem test_yStept : exec (.yStept 0x14) (at_ 0x54 []) = .next (at_ 0xFC []) := rfl
theorem test_yStepc : exec (.yStepc 0x00) (at_ 0x08 []) = .next (at_ 0x48 []) := rfl
theorem test_zIdle : exec (.zIdle true 0x60) (at_ 0x1C []) = .next (at_ 0x00 []) := rfl
theorem test_zStept : exec (.zStept 0x00) (at_ 0x10 []) = .next (at_ 0x00 []) := rfl
theorem test_zStepc : exec (.zStepc 0x00) (at_ 0x80 []) = .next (at_ 0x00 []) := rfl

/-- Section 2.9: `RESET` with `tick = 1` at the same edge; `tick = 0`. -/
theorem test_step_reset_wins : step (at_ 0xFC [⟨true, true, 0x1C⟩]) = .next (at_ 0x00 []) := rfl
theorem test_step_no_tick : step (at_ 0xFC [⟨false, false, 0x1C⟩]) = .next (at_ 0xFC []) := rfl
theorem test_step_convert : step (at_ 0xFC [tickEdge 0xFF]) = .next (at_ 0x1F []) := rfl
theorem test_fetch_word : step (State.reset.withFetchWord 8 0x24) = .next (at_ 0x20 []) := rfl
theorem test_edge_returns : edgeReturns Config.reference ⟨true, true, 0x1C⟩ 0xFC = none ∧
    edgeReturns Config.reference (tickEdge 0xFF) 0xFC = some 0x1F ∧ edgeRegister Config.reference ⟨true, true, 0x1C⟩ 0xFC = 0 := by decide

/-! ### Witnesses -/

theorem witness_NextIndexByCases : (-1 : Int) < 0 ∧ (4 : Int) ≤ 4 := by decide
theorem witness_NextIndexInRangeIsModulo : (0 : Int) ≤ 3 ∧ (3 : Int) ≤ 3 := by decide
theorem witness_SetAxisPhaseResult : 0 < 8 ∧ 7 < 8 ∧ 0 ≠ 7 ∧ (4 < 8 ∧ 4 ≠ 0 ∧ 4 ≠ 7) := by decide
theorem witness_SetAxisPhaseReadsOnlyItsSlot :
    bit (0x24 : Byte) 2 = bit (0x3C : Byte) 2 ∧ bit (0x24 : Byte) 5 = bit (0x3C : Byte) 5 ∧
    bit (0x20 : Byte) 2 = bit (0xE0 : Byte) 2 ∧ bit (0x20 : Byte) 5 = bit (0xE0 : Byte) 5 ∧
    ∀ n, n < 8 → n ≠ 2 → n ≠ 5 → bit (0xDB : Byte) n = bit (0xFF : Byte) n := by decide
theorem witness_SetAxisPhaseMaskForm : 3 < 8 ∧ 6 < 8 ∧ 3 ≠ 6 := by decide
theorem witness_AxisOrderCannotBeObserved : Axis.z ≠ .x ∧ Axis.x ≠ .y ∧ Axis.z ≠ .y := by decide
theorem witness_AxesDoNotInterfere : agreeOutside Config.reference .x 0xFC 0xD8 ∧ agreeOutside Config.reference .x 0xC8 0xEC := by
  unfold agreeOutside inSlot; decide
/-- Bits 1 and 0 are the pass-through bits under `SLOTS_REF` (R52), and no others. -/
theorem passThrough_reference (n : Nat) : passThrough Config.reference n ↔ n = 0 ∨ n = 1 := by
  constructor
  · rintro ⟨hn, h⟩
    have hx := h .x
    have hy := h .y
    have hz := h .z
    simp only [inSlot, Config.slot, Config.reference, Slots.slot, slotsRef] at hx hy hz
    omega
  · intro h
    refine ⟨by omega, fun a => ?_⟩
    cases a <;> simp only [inSlot, Config.slot, Config.reference, Slots.slot, slotsRef] <;> omega

theorem witness_PassThroughBitsCopied : passThrough Config.reference 0 ∧ passThrough Config.reference 1 ∧
    agreeOnSlots Config.reference 0xFC 0xFF :=
  ⟨(passThrough_reference 0).2 (.inl rfl), (passThrough_reference 1).2 (.inr rfl), fun a => by cases a <;> decide⟩

theorem witness_AllIdleLeavesPassThroughOnly : ∀ a, stepFlag Config.reference 0xE3 a = false := by
  intro a; cases a <;> decide

theorem witness_IdleDirectionFlagIgnored :
    (∀ a, stepFlag Config.reference 0x48 a = stepFlag Config.reference 0xE8 a) ∧
    (∀ a, stepFlag Config.reference 0x48 a = true → dirFlag Config.reference 0x48 a = dirFlag Config.reference 0xE8 a) ∧
    (∀ n, passThrough Config.reference n → bit (0x48 : Byte) n = bit (0xE8 : Byte) n) ∧
    stepFlag Config.reference 0x48 .x = false := by
  refine ⟨fun a => by cases a <;> decide, fun a => by cases a <;> decide, fun n h => ?_, by decide⟩
  obtain rfl | rfl := (passThrough_reference n).1 h <;> decide

theorem witness_AxisCycleLaws : bit (0b01 : CmdField) 1 = false ∧ ((0b10 : CmdField) = 0b10 ∨ (0b10 : CmdField) = 0b11) := by decide
theorem witness_StepChangesOneBitOfThePhase : stepFlag Config.reference 0x24 .x = true := by decide
theorem witness_IdleCallLosesThePosition :
    stepFlag Config.reference 0x20 .x = false ∧ stepFlag Config.reference 0x24 .x = true := by decide
theorem witness_ConvertLaneView : passThrough Config.reference 1 := (passThrough_reference 1).2 (.inr rfl)
theorem witness_DecodeInvertsEncode : (Instr.xStept 0xDB).wf Config.reference = true ∧
    (Instr.axIdle .y true 0xB7).wf Config.reference = true ∧ (Instr.convert 0xFF).wf Config.reference = true := by decide

theorem witness_StepRunsTheDecodedWord : (at_ 0x00 [tickEdge 0x1C]).edges = tickEdge 0x1C :: [] ∧
    (tickEdge 0x1C).rst = false ∧ (tickEdge 0x1C).tick = true := by decide
theorem witness_ResetWinsOverTick : (at_ 0xFC [⟨true, true, 0x1C⟩]).edges = ⟨true, true, 0x1C⟩ :: [] ∧
    (⟨true, true, 0x1C⟩ : Edge).rst = true := by decide
theorem witness_NoRequestChangesNothing : (at_ 0xFC [⟨false, false, 0x1C⟩]).edges = ⟨false, false, 0x1C⟩ :: [] ∧
    (⟨false, false, 0x1C⟩ : Edge).rst = false ∧ (⟨false, false, 0x1C⟩ : Edge).tick = false ∧ (at_ 0xFC []).edges = [] := by decide
theorem witness_FetchWordRunsNext : 8 ≤ 8 ∧ 0 ≤ 8 := by decide

/-- A step of each kind: a conversion that changes the register, a reset, and none. -/
theorem witness_RegisterHasTwoWriters : step (at_ 0x1C [tickEdge 0x1C]) = .next (at_ 0xFC []) ∧
    step (at_ 0xFC [⟨true, false, 0x00⟩]) = .next (at_ 0x00 []) ∧ step (at_ 0xFC []) = .next (at_ 0xFC []) :=
  ⟨rfl, rfl, rfl⟩

theorem witness_RestingAxisKeepsResting : AxisRests (at_ 0x04 [tickEdge 0x24, tickEdge 0x04]) .y ∧
    step (at_ 0x04 [tickEdge 0x24, tickEdge 0x04]) = .next (at_ 0x00 [tickEdge 0x04]) := by
  refine ⟨⟨by decide, ?_⟩, rfl⟩
  unfold noStepPending
  decide
theorem witness_QuietPassThroughStaysQuiet : PassThroughQuiet (at_ 0x04 [tickEdge 0x24, tickEdge 0x04]) ∧
    step (at_ 0x04 [tickEdge 0x24, tickEdge 0x04]) = .next (at_ 0x00 [tickEdge 0x04]) := by
  refine ⟨?_, rfl⟩
  unfold PassThroughQuiet
  decide

/-- The good case at both ends of the range, the bad case by each clause. -/
theorem witness_IllFormedSlotsRefused :
    ({ x := ⟨0, 7⟩, y := ⟨1, 6⟩, z := ⟨2, 5⟩ } : Slots).wf = true ∧
    buildConfig { slotsRef with x := ⟨2, 8⟩ } = .error .illFormedSlots ∧
    buildConfig { slotsRef with x := ⟨2, 2⟩ } = .error .illFormedSlots ∧
    buildConfig { slotsRef with y := ⟨2, 6⟩ } = .error .illFormedSlots := ⟨by decide, rfl, rfl, rfl⟩

theorem witness_MachineRunIsTheRunFunction : 0 < ([0x1C, 0x1C] : List Byte).length ∧ 1 < ([0x1C, 0x1C] : List Byte).length := by decide
theorem witness_OutputsDependOnSlotBitsOnly : agreeOnSlots Config.reference 0x1C 0x1F := fun a => by cases a <;> decide
theorem witness_DeliveredStepsMoveTheAxis : deliversSteps Config.reference .x [true, true, false] [0x24, 0x2C, 0x04] := by
  unfold deliversSteps; decide
theorem witness_OnePhaseAdvancePerIntendedStep : deliversSteps Config.reference .z [false, true] [0x10, 0x94] := by
  unfold deliversSteps; decide
theorem witness_OneOutputDoesNotTellTheInput : cmdField Config.reference 0x24 .x = 0b11 ∧
    axPhase Config.reference 0x04 .x = 2 ∧ stepFlag Config.reference 0x00 .x = false := by decide
theorem witness_InstancesAreIndependent : (0 : Nat) ≠ 1 ∧
    [at_ 0x1C [tickEdge 0x1C], at_ 0x00 []][0]? = some (at_ 0x1C [tickEdge 0x1C]) ∧
    step (at_ 0x1C [tickEdge 0x1C]) = .next (at_ 0xFC []) := ⟨by decide, rfl, rfl⟩

end Sys2Proof.Tests
end

section
/-! SUPPORT. The lanes of one conversion: what `COMPOSITE` puts into each slot and each pass-through position, and when two
command fields have the same effect. Then the obligation of `30_encoding.md` section 2 (R57). -/

namespace Sys2Proof.Machine

/-- The slot of each axis in a result holds that axis's next phase (R102). -/
@[simp] theorem axPhase_composite (c : Config) (w s : Byte) (a : Axis) :
    axPhase c (composite c w s) a = axNext (cmdField c w a) (axPhase c s a) := by
  simp [composite_eq_assemble]

/-- A pass-through bit of a result comes from the input (R103). -/
theorem bit_composite_passThrough (c : Config) (w s : Byte) {n : Nat} (h : passThrough c n) :
    bit (composite c w s) n = bit w n := by
  rw [composite_eq_assemble]
  exact getLsbD_assemble_passThrough c _ w h

/-- Bit 1 of a phase stands at the step position of its slot (R28). -/
theorem bit_axPhase_one (c : Config) (v : Byte) (a : Axis) : bit (axPhase c v a) 1 = bit v (c.slot a).stepBit :=
  getLsbD_gather_one v _ _

/-- Bit 0 of a phase stands at the direction position of its slot (R28). -/
theorem bit_axPhase_zero (c : Config) (v : Byte) (a : Axis) : bit (axPhase c v a) 0 = bit v (c.slot a).dirBit :=
  getLsbD_gather_zero v _ _

/-- A slot that holds phase 0 has both of its bits clear. -/
theorem slot_bits_of_axPhase_zero {c : Config} {v : Byte} {a : Axis} (h : axPhase c v a = 0) :
    bit v (c.slot a).stepBit = false ∧ bit v (c.slot a).dirBit = false := by
  rw [← bit_axPhase_one, ← bit_axPhase_zero, h]
  decide

/-- The next phase depends on the step flag, and on the direction flag only where the step flag is 1 (R76). -/
theorem axNext_congr {cmd cmd' : CmdField} (p : Phase) (hstep : bit cmd 1 = bit cmd' 1)
    (hdir : bit cmd 1 = true → bit cmd 0 = bit cmd' 0) : axNext cmd p = axNext cmd' p := by
  cases hcmd : bit cmd 1 with
  | false => rw [axNext_idle p hcmd, axNext_idle p (hstep ▸ hcmd)]
  | true => rw [axNext, axNext, ← hstep, ← hdir hcmd]

/-- A word that leaves an axis idle puts phase 0 into the axis's slot (R81). -/
theorem axPhase_composite_idle {c : Config} {w : Byte} {a : Axis} (s : Byte) (h : stepFlag c w a = false) :
    axPhase c (composite c w s) a = 0 := by
  rw [axPhase_composite]
  exact axNext_idle _ (by rw [bit_cmdField_one, h])

/-- Words that agree on the step flags, on the direction flags of the stepping axes and on the pass-through bits give the
same result. -/
theorem composite_congr_input {c : Config} {w w' : Byte} (s : Byte) (hstep : ∀ a, stepFlag c w a = stepFlag c w' a)
    (hdir : ∀ a, stepFlag c w a = true → dirFlag c w a = dirFlag c w' a)
    (hpass : ∀ n, passThrough c n → bit w n = bit w' n) : composite c w s = composite c w' s := by
  apply byte_ext c
  · intro a
    rw [axPhase_composite, axPhase_composite]
    apply axNext_congr
    · simpa using hstep a
    · simpa using hdir a
  · intro n hn
    exact (bit_composite_passThrough c w s hn).trans ((hpass n hn).trans (bit_composite_passThrough c w' s hn).symm)

/-- Settles O24: the result is determined lane by lane, and an idle lane has next phase 0 whatever its direction flag is. -/
theorem idleDirectionFlagIgnored : Obligations.IdleDirectionFlagIgnored := by
  intro c w w' s hstep hdir hpass
  exact ⟨composite_congr_input s hstep hdir hpass,
    fun a hidle => slot_bits_of_axPhase_zero (axPhase_composite_idle s hidle)⟩

end Sys2Proof.Machine
end

section
/-! SUPPORT. The stepper sequence table entry by entry, and the four indices of the cycle. Then the obligations of
`40_sequence_table.md` about the contents of the tables (R64, R65) and opposite phases (R68). -/

namespace Sys2Proof.Machine

@[simp] theorem forward_zero : forward 0#2 = 0#2 := rfl
@[simp] theorem forward_one : forward 1#2 = 1#2 := rfl
@[simp] theorem forward_two : forward 2#2 = 3#2 := rfl
@[simp] theorem forward_three : forward 3#2 = 2#2 := rfl

@[simp] theorem inverse_zero : inverse 0#2 = 0#2 := rfl
@[simp] theorem inverse_one : inverse 1#2 = 1#2 := rfl
@[simp] theorem inverse_three : inverse 3#2 = 2#2 := rfl
@[simp] theorem inverse_two : inverse 2#2 = 3#2 := rfl

/-- The domain of both tables is closed over four values (R64, R65). -/
theorem twoBit_cases (i : BitVec 2) : i = 0#2 ∨ i = 1#2 ∨ i = 2#2 ∨ i = 3#2 := by
  revert i
  decide

/-- Two places round the cycle is the complement of the phase: the pairs 0 and 3, 1 and 2 stand opposite (R68). -/
theorem forward_add_two (i : Index) : forward (i + 2) = ~~~(forward i) := by
  obtain rfl | rfl | rfl | rfl := twoBit_cases i <;> simp

/-- Settles O3: the eight entries of the two tables. -/
theorem sequenceTableEntries : Obligations.SequenceTableEntries :=
  ⟨⟨forward_zero, forward_one, forward_two, forward_three⟩, ⟨inverse_zero, inverse_one, inverse_three, inverse_two⟩⟩

/-- Settles O5: the complement of a table entry is the entry two indices further on, modulo 4. -/
theorem complementIsOppositePhase : Obligations.ComplementIsOppositePhase :=
  fun i => (forward_add_two i).symm

end Sys2Proof.Machine
end

section
/-! SUPPORT. `NEXTINDEX`, `INVERT2` and the arms of `NEXTPHASE`, one lemma per case. Then the obligations of
`41_single_axis_stepper.md` about them (R73, R75, R76, R79). -/

namespace Sys2Proof.Machine

@[simp] theorem nextIndex_zero : nextIndex 0 = 1#2 := rfl
@[simp] theorem nextIndex_one : nextIndex 1 = 2#2 := rfl
@[simp] theorem nextIndex_two : nextIndex 2 = 3#2 := rfl

/-- Everything but 0, 1 and 2 restarts the cycle: 3 by the wrap, the rest by the clamp (R73). -/
theorem nextIndex_eq_zero {i : Int} (h : i < 0 ∨ 3 ≤ i) : nextIndex i = 0#2 := by
  have h0 : i ≠ 0 := by omega
  have h1 : i ≠ 1 := by omega
  have h2 : i ≠ 2 := by omega
  simp [nextIndex, h0, h1, h2]

/-- The mask of `INVERT2` and of `NEXTPHASE` covers a whole phase (R75, R76). -/
theorem phaseMask_eq_allOnes : (0b11 : Phase) = BitVec.allOnes 2 := rfl

theorem invert2_eq_not (p : Phase) : invert2 p = ~~~p := rfl

/-- `INVERT2` by arithmetic: `3 - p` (R75). -/
theorem toNat_invert2 (p : Phase) : (invert2 p).toNat = 3 - p.toNat := by
  rw [invert2_eq_not, BitVec.toNat_not]

/-- `INVERT2` by exclusive or (R75). -/
theorem invert2_eq_xor (p : Phase) : invert2 p = p ^^^ 0b11 := by
  rw [phaseMask_eq_allOnes, BitVec.xor_allOnes, invert2_eq_not]

/-- `INVERT2` undoes itself (R75). -/
@[simp] theorem invert2_invert2 (p : Phase) : invert2 (invert2 p) = p :=
  BitVec.not_not

/-- In the 8-bit container the complement also sets bits 7 to 2, and the mask clears them again (R75). -/
theorem container_invert2 (p : Phase) : container (invert2 p) = ~~~(container p) &&& 0b11 := by
  obtain rfl | rfl | rfl | rfl := twoBit_cases p <;> rfl

/-- A call without a step gives phase 0 (R79). -/
@[simp] theorem nextPhase_noStep (dir : Bool) (i : Int) : nextPhase false dir i = 0 := rfl

/-- A step in the table's direction (R76). -/
theorem nextPhase_step_true (i : Int) : nextPhase true true i = forward (nextIndex i) := by
  simp only [nextPhase, phaseMask_eq_allOnes, BitVec.and_allOnes, Bool.true_eq_false, if_false]

/-- A step in the complementary direction (R76). -/
theorem nextPhase_step_false (i : Int) : nextPhase true false i = invert2 (forward (nextIndex i)) := by
  simp only [nextPhase, phaseMask_eq_allOnes, BitVec.and_allOnes, Bool.true_eq_false, if_false, if_true]

/-- Settles O7: the three entries that advance, and 0 for every other integer. -/
theorem nextIndexByCases : Obligations.NextIndexByCases := by
  have hneg : ∀ i : Int, i < 0 → nextIndex i = 0 := fun _ h => nextIndex_eq_zero (.inl h)
  have hbig : ∀ i : Int, 4 ≤ i → nextIndex i = 0 := fun _ h => nextIndex_eq_zero (.inr (by omega))
  exact ⟨nextIndex_zero, nextIndex_one, nextIndex_two, nextIndex_eq_zero (.inr le_rfl), hneg, hbig,
    hneg _ (by decide), hneg _ (by decide), hbig _ (by decide), hbig _ (by decide), hneg _ (by decide)⟩

/-- Settles O9: one lemma per spelling of the rule, then the four values. -/
theorem invertComplementsTwoBits : Obligations.InvertComplementsTwoBits :=
  ⟨fun p => ⟨invert2_eq_not p, toNat_invert2 p, invert2_eq_xor p, invert2_invert2 p, container_invert2 p⟩,
    rfl, rfl, rfl, rfl⟩

/-- Settles O10: one lemma per arm; the worked example is the complement of `FORWARD(1)`. -/
theorem nextPhaseArms : Obligations.NextPhaseArms := by
  have hexample : nextPhase true false 0 = 2 := by
    rw [nextPhase_step_false, nextIndex_zero, forward_one]
    rfl
  exact ⟨nextPhase_noStep, nextPhase_step_true, nextPhase_step_false, hexample⟩

end Sys2Proof.Machine
end

section
/-! SUPPORT. The bits of a scatter, read by `bit`, and `COMPOSITE` from the phases of its three lanes. Then the obligations
of `42_multi_axis_compositor.md` about the result of `SETAXISPHASE` (R92) and the document's fixtures (R106). -/

namespace Sys2Proof.Machine

/-- Step (5) of `SETAXISPHASE` returns what step (4) scatters: the next phase, put into `result` (R92). -/
theorem setAxisPhase_eq_scatter (input state result : Byte) (sb db : Nat) :
    setAxisPhase input state result sb db = scatter result sb db
      (nextPhase (bit input sb) (bit input db) (indexInt (inverse (gather state sb db)))) := rfl

section
variable (r : Byte) {sb db : Nat} (p : BitVec 2)

theorem bit_scatter_step (hs : sb < 8) (hne : sb ≠ db) : bit (scatter r sb db p) sb = bit p 1 :=
  (getLsbD_scatter r p hne hs).trans (if_pos rfl)

theorem bit_scatter_dir (hd : db < 8) (hne : sb ≠ db) : bit (scatter r sb db p) db = bit p 0 :=
  (getLsbD_scatter r p hne hd).trans ((if_neg hne.symm).trans (if_pos rfl))

theorem bit_scatter_other (hne : sb ≠ db) {n : Nat} (hn : n < 8) (hns : n ≠ sb) (hnd : n ≠ db) :
    bit (scatter r sb db p) n = bit r n :=
  (getLsbD_scatter r p hne hn).trans ((if_neg hns).trans (if_neg hnd))

end

/-- Settles O16: the result is a scatter of the next phase, so each of its bits is a bit of the phase or of `result`. -/
theorem setAxisPhaseResult : Obligations.SetAxisPhaseResult := by
  have hexample : setAxisPhase 0x24 0x00 0x24 2 5 = 0x20 := by decide
  refine ⟨?_, hexample⟩
  intro input state result sb db hs hd hne np
  rw [setAxisPhase_eq_scatter]
  exact ⟨bit_scatter_step result np hs hne, bit_scatter_dir result np hd hne,
    fun n hn hns hnd => bit_scatter_other result np hne hn hns hnd⟩

/-- A result is known once the next phase of each lane is. -/
theorem composite_eq_of_lanes {c : Config} {w s : Byte} (x y z : Phase)
    (hx : axNext (cmdField c w .x) (axPhase c s .x) = x) (hy : axNext (cmdField c w .y) (axPhase c s .y) = y)
    (hz : axNext (cmdField c w .z) (axPhase c s .z) = z) :
    composite c w s = putSlot c (putSlot c (putSlot c w .x x) .y y) .z z := by
  subst hx hy hz
  exact composite_eq_assemble c w s

/-- Settles O25: the phases that the axes X, Y, Z reach in each fixture, and the byte they are packed into. -/
theorem compositeFixtures : Obligations.CompositeFixtures := by
  refine ⟨?_, ?_, ?_, ?_⟩
  · exact composite_eq_of_lanes 0 1 0 rfl rfl rfl
  · exact composite_eq_of_lanes 1 1 0 rfl rfl rfl
  · exact composite_eq_of_lanes 0 2 0 rfl rfl rfl
  · exact composite_eq_of_lanes 1 2 3 rfl rfl rfl

end Sys2Proof.Machine
end

section
/-! SUPPORT. What `CONVERT` answers and returns, the run of a repeated word that comes back after four calls, and the
document's two repeated words call by call. Then the obligations of `43_converter.md` about one conversion (R108) and about
the two literal scenarios (R113, R114). -/

namespace Sys2Proof.Machine

/-- `CONVERT` answers the state that a conversion leaves (R108). -/
theorem exec_convert (w : Byte) (s : State) : exec (.convert w) s = .next (convertState w s) := rfl

/-- A conversion writes the register and nothing else (R108). -/
theorem convertState_eq (w : Byte) (s : State) :
    convertState w s = { s with curPhase := composite s.config w s.curPhase } := rfl

/-- The byte returned is the byte stored (R109). -/
theorem convertReturns_eq (w : Byte) (s : State) : convertReturns w s = composite s.config w s.curPhase := rfl

/-- A word that takes the register round four values gives these four bytes, in order, once per round. -/
theorem runOutputs_replicate_of_fourCycle {c : Config} {w b₀ b₁ b₂ b₃ : Byte}
    (h₁ : composite c w b₀ = b₁) (h₂ : composite c w b₁ = b₂) (h₃ : composite c w b₂ = b₃) (h₄ : composite c w b₃ = b₀)
    (k : Nat) : runOutputs c (List.replicate (4 * k) w) b₀ = (List.replicate k [b₁, b₂, b₃, b₀]).flatten := by
  induction k with
  | zero => rfl
  | succ k ih =>
    have hround : List.replicate (4 * (k + 1)) w = w :: w :: w :: w :: List.replicate (4 * k) w := rfl
    simp only [hround, runOutputs, h₁, h₂, h₃, h₄, ih, List.replicate_succ, List.flatten_cons, List.cons_append,
      List.nil_append]

/-! The word 28 steps X, Y and Z in complement order: each of them goes through the phases 2, 3, 1, 0 (R113). -/

theorem composite_28_0 : composite Config.reference 28 0 = 28 := composite_eq_of_lanes 2 2 2 rfl rfl rfl
theorem composite_28_28 : composite Config.reference 28 28 = 252 := composite_eq_of_lanes 3 3 3 rfl rfl rfl
theorem composite_28_252 : composite Config.reference 28 252 = 224 := composite_eq_of_lanes 1 1 1 rfl rfl rfl
theorem composite_28_224 : composite Config.reference 28 224 = 0 := composite_eq_of_lanes 0 0 0 rfl rfl rfl

/-! The word 92 steps X and Z in complement order and Y in table order: Y goes through the phases 1, 3, 2, 0 (R114). -/

theorem composite_92_0 : composite Config.reference 92 0 = 84 := composite_eq_of_lanes 2 1 2 rfl rfl rfl
theorem composite_92_84 : composite Config.reference 92 84 = 252 := composite_eq_of_lanes 3 3 3 rfl rfl rfl
theorem composite_92_252 : composite Config.reference 92 252 = 168 := composite_eq_of_lanes 1 2 1 rfl rfl rfl
theorem composite_92_168 : composite Config.reference 92 168 = 0 := composite_eq_of_lanes 0 0 0 rfl rfl rfl

/-- Settles O28: the meaning of `CONVERT` is one write of `COMPOSITE`; the example is the first two calls of R113. -/
theorem convertStoresComposite : Obligations.ConvertStoresComposite := by
  have hfirst : (convertState 0x1C State.reset).curPhase = 0x1C := composite_28_0
  refine ⟨fun w s => ⟨?_, convertReturns_eq w s⟩, composite_28_0, hfirst, ?_⟩
  · rw [exec_convert, convertState_eq]
  · rw [convertReturns_eq, hfirst]
    exact composite_28_28

/-- Settles O50: four calls of 28 take the register from 0 back to 0, so every round gives the same four bytes. -/
theorem scenarioAllAxesComplementOrder : Obligations.ScenarioAllAxesComplementOrder := by
  refine ⟨runOutputs_replicate_of_fourCycle composite_28_0 composite_28_28 composite_28_252 composite_28_224,
    rfl, rfl, rfl, fun a => ?_⟩
  cases a <;> rfl

/-- Settles O51: four calls of 92 take the register from its reset value back to it, so every round gives the same four
bytes. -/
theorem scenarioAxisYReversed : Obligations.ScenarioAxisYReversed :=
  ⟨runOutputs_replicate_of_fourCycle composite_92_0 composite_92_84 composite_92_252 composite_92_168,
    rfl, rfl, rfl, rfl, rfl, rfl⟩

end Sys2Proof.Machine
end

section
/-! SUPPORT. Lane rows against words: the word of a row gives its command and its other bits back, and every word is the
word of its row. Then the obligations of `30_encoding.md` section 2 about decoding and encoding. -/

namespace Sys2Proof.Machine

/-- The word of a lane row holds the row's other bits: with the command taken out they are left. -/
theorem putSlot_laneWord_zero {c : Config} {a : Axis} {rest : Byte} (cmd : AxisCmd) (h : restFree c a rest = true) :
    putSlot c (laneWord c a cmd rest) a 0 = rest := by
  have hfree : axPhase c rest a = 0 := of_decide_eq_true h
  rw [laneWord, putSlot_putSlot, ← hfree, putSlot_axPhase]

/-- A word is its command field put into the slot of what is left without it. -/
theorem laneWord_decodeField (c : Config) (a : Axis) (w : Byte) :
    laneWord c a (decodeField (cmdField c w a)) (putSlot c w a 0) = w := by
  rw [laneWord, encodeField_decodeField, putSlot_putSlot, cmdField_eq_axPhase, putSlot_axPhase]

/-- What is left of a word without its command field leaves the slot free. -/
theorem restFree_putSlot_zero (c : Config) (a : Axis) (w : Byte) : restFree c a (putSlot c w a 0) = true :=
  decide_eq_true (axPhase_putSlot_self c w a 0)

section
variable (c : Config) (a : Axis) (rest : Byte) (cmd : AxisCmd)

@[simp] theorem encodeAt_fieldInstr : encodeAt c (fieldInstr a rest cmd) = laneWord c a cmd rest := by
  cases cmd <;> rfl

@[simp] theorem encodeAt_laneInstr : encodeAt c (laneInstr a rest cmd) = laneWord c a cmd rest := by
  cases a <;> cases cmd <;> rfl

@[simp] theorem wf_fieldInstr : (fieldInstr a rest cmd).wf c = restFree c a rest := by
  cases cmd <;> rfl

@[simp] theorem wf_laneInstr : (laneInstr a rest cmd).wf c = restFree c a rest := by
  cases a <;> cases cmd <;> rfl

@[simp] theorem reading_fieldInstr : (fieldInstr a rest cmd).reading = .field a := by
  cases cmd <;> rfl

@[simp] theorem reading_laneInstr : (laneInstr a rest cmd).reading = .lane a := by
  cases a <;> cases cmd <;> rfl

end

/-- Decoding the word of an `AX.` row under its axis's field. -/
theorem decodeAs_field_laneWord {c : Config} {a : Axis} {rest : Byte} (cmd : AxisCmd) (h : restFree c a rest = true) :
    decodeAs c (.field a) (laneWord c a cmd rest) = fieldInstr a rest cmd := by
  rw [decodeAs, putSlot_laneWord_zero cmd h, Laws.MatchesRow.cmdField_laneWord, decodeField_encodeField]

/-- Decoding the word of an `X.`, `Y.` or `Z.` row under its lane. -/
theorem decodeAs_lane_laneWord {c : Config} {a : Axis} {rest : Byte} (cmd : AxisCmd) (h : restFree c a rest = true) :
    decodeAs c (.lane a) (laneWord c a cmd rest) = laneInstr a rest cmd := by
  rw [decodeAs, putSlot_laneWord_zero cmd h, Laws.MatchesRow.cmdField_laneWord, decodeField_encodeField]

/-- Settles O35: row by row, the slot gives the command back and the other positions give `rest` back. -/
theorem decodeInvertsEncode : Obligations.DecodeInvertsEncode := by
  intro c i hwf
  cases i with
  | convert w => rfl
  | axIdle a dir rest => exact decodeAs_field_laneWord (.idle dir) hwf
  | axStept a rest => exact decodeAs_field_laneWord .stept hwf
  | axStepc a rest => exact decodeAs_field_laneWord .stepc hwf
  | xIdle dir rest => exact decodeAs_lane_laneWord (a := .x) (.idle dir) hwf
  | xStept rest => exact decodeAs_lane_laneWord (a := .x) .stept hwf
  | xStepc rest => exact decodeAs_lane_laneWord (a := .x) .stepc hwf
  | yIdle dir rest => exact decodeAs_lane_laneWord (a := .y) (.idle dir) hwf
  | yStept rest => exact decodeAs_lane_laneWord (a := .y) .stept hwf
  | yStepc rest => exact decodeAs_lane_laneWord (a := .y) .stepc hwf
  | zIdle dir rest => exact decodeAs_lane_laneWord (a := .z) (.idle dir) hwf
  | zStept rest => exact decodeAs_lane_laneWord (a := .z) .stept hwf
  | zStepc rest => exact decodeAs_lane_laneWord (a := .z) .stepc hwf

/-- Settles O36: a word is cut into its command field and what is left, and put together again. -/
theorem encodeInvertsDecode : Obligations.EncodeInvertsDecode := by
  intro c r w
  cases r with
  | word => exact ⟨rfl, rfl, rfl⟩
  | field a =>
    exact ⟨(encodeAt_fieldInstr ..).trans (laneWord_decodeField c a w),
      (wf_fieldInstr ..).trans (restFree_putSlot_zero c a w), reading_fieldInstr ..⟩
  | lane a =>
    exact ⟨(encodeAt_laneInstr ..).trans (laneWord_decodeField c a w),
      (wf_laneInstr ..).trans (restFree_putSlot_zero c a w), reading_laneInstr ..⟩

/-! ### The rows of the opcode table -/

/-- One slot of a byte tells which 2-bit value was put into it. -/
theorem putSlot_inj {c : Config} {r : Byte} {a : Axis} {p q : BitVec 2} : putSlot c r a p = putSlot c r a q ↔ p = q := by
  refine ⟨fun h => ?_, fun h => h ▸ rfl⟩
  rw [← axPhase_putSlot_self c r a p, h, axPhase_putSlot_self]

/-- A mask over one slot meets a word in the word's command field (R55, R56). -/
theorem and_putSlot_zero (a : Axis) (w : Byte) (m : BitVec 2) :
    w &&& putSlot Config.reference 0 a m = putSlot Config.reference 0 a (cmdField Config.reference w a &&& m) := by
  have h := Laws.MatchesRow.laneWord_and_mask a (decodeField (cmdField Config.reference w a))
    (putSlot Config.reference w a 0) m
  rwa [laneWord_decodeField, encodeField_decodeField] at h

/-- A row whose mask and value are a field's mask and value in a lane matches by the lane's command field. -/
theorem matchesWord_lane (name : String) (a : Axis) (m v : CmdField) (w : Byte) :
    (OpRow.w8 name (putSlot Config.reference 0 a m) (putSlot Config.reference 0 a v)).matchesWord (.lane a) w =
      decide (cmdField Config.reference w a &&& m = v) := by
  simp only [OpRow.matchesWord, and_putSlot_zero, putSlot_inj]

/-- The rows of a lane are the rows of the field `AX2`, moved into the axis's slot (R55, R56). -/
theorem rowsFor_lane (a : Axis) :
    rowsFor (.lane a) =
      [.w8 (laneInstr a 0 (.idle false)).mnemonic (putSlot Config.reference 0 a 0b10) (putSlot Config.reference 0 a 0b00),
       .w8 (laneInstr a 0 .stept).mnemonic (putSlot Config.reference 0 a 0b11) (putSlot Config.reference 0 a 0b11),
       .w8 (laneInstr a 0 .stepc).mnemonic (putSlot Config.reference 0 a 0b11) (putSlot Config.reference 0 a 0b10)] := by
  cases a <;> rfl

/-- Settles O37: the masks of a reading's rows select the command field, and each of its four values meets exactly one of
the three masks in the row's value. -/
theorem everyWordMatchesOneRowPerReading : Obligations.EveryWordMatchesOneRowPerReading := by
  intro r w
  cases r with
  | word => simp [rowsFor, OpRow.matchesWord, OpRow.mnemonic, decodeAs, decode, Instr.mnemonic]
  | field a =>
    simp only [rowsFor, List.filter, OpRow.matchesWord, decodeAs]
    obtain hf | hf | hf | hf := twoBit_cases (cmdField Config.reference w a) <;> rw [hf] <;> rfl
  | lane a =>
    simp only [rowsFor_lane, List.filter, matchesWord_lane, decodeAs]
    obtain hf | hf | hf | hf := twoBit_cases (cmdField Config.reference w a) <;> rw [hf] <;> cases a <;> rfl

/-- Settles O38: the spec's words cut into field and rest, and the totality of the decoder on one byte. -/
theorem specWordsDecode : Obligations.SpecWordsDecode :=
  ⟨rfl, rfl, rfl, rfl, fun _ => rfl⟩

end Sys2Proof.Machine
end

section
/-! SUPPORT. The cycle of four: the two tables as inverses, and a step command as a move of the index by one place. Then the
obligations of `40_sequence_table.md` and `41_single_axis_stepper.md` about the tables, the index and one axis. -/

namespace Sys2Proof.Machine

@[simp] theorem inverse_forward (i : Index) : inverse (forward i) = i := by
  obtain rfl | rfl | rfl | rfl := twoBit_cases i <;> rfl

@[simp] theorem forward_inverse (p : Phase) : forward (inverse p) = p := by
  obtain rfl | rfl | rfl | rfl := twoBit_cases p <;> rfl

/-- The table takes one index to each phase. -/
theorem forward_inj {i j : Index} : forward i = forward j ↔ i = j :=
  ⟨fun h => by rw [← inverse_forward i, h, inverse_forward], congrArg forward⟩

/-- Settles O4: each table undoes the other, entry by entry. -/
theorem tablesInvertEachOther : Obligations.TablesInvertEachOther :=
  ⟨inverse_forward, forward_inverse⟩

/-- Two phases differ in exactly one bit. -/
def DifferInOneBit (p q : Phase) : Prop :=
  (bit p 0 = bit q 0) ≠ (bit p 1 = bit q 1)

theorem DifferInOneBit.ne {p q : Phase} (h : DifferInOneBit p q) : p ≠ q := by
  rintro rfl
  exact h (by simp)

theorem DifferInOneBit.symm {p q : Phase} (h : DifferInOneBit p q) : DifferInOneBit q p := by
  rwa [DifferInOneBit, eq_comm (a := bit q 0), eq_comm (a := bit q 1)]

/-- Neighbours of the cycle, the wrap included (R67). -/
theorem forward_differInOneBit_succ (i : Index) : DifferInOneBit (forward i) (forward (i + 1)) := by
  obtain rfl | rfl | rfl | rfl := twoBit_cases i <;> simp [DifferInOneBit, bit, forward]

/-- Settles O6: the four neighbouring pairs. -/
theorem neighbourPhasesDifferInOneBit : Obligations.NeighbourPhasesDifferInOneBit :=
  forward_differInOneBit_succ

/-! ### The next index -/

/-- An index as an integer is one of 0, 1, 2, 3. -/
theorem indexInt_bounds (i : Index) : 0 ≤ indexInt i ∧ indexInt i ≤ 3 := by
  have := i.isLt
  unfold indexInt
  omega

/-- `NEXTINDEX` of an index in the range is the successor modulo 4 (R74). -/
@[simp] theorem nextIndex_indexInt (i : Index) : nextIndex (indexInt i) = i + 1 := by
  obtain rfl | rfl | rfl | rfl := twoBit_cases i <;> rfl

/-- The wrap of `NEXTINDEX`, and the clamp outside 0 to 3, in one expression: the entry of the table it leads to. -/
theorem forward_nextIndex (i : Int) :
    forward (nextIndex i) = if i = 0 then 1 else if i = 1 then 3 else if i = 2 then 2 else 0 := by
  unfold nextIndex
  split_ifs <;> rfl

/-- Settles O8: a 2-bit index is in range, and inside the range the four entries are the successor modulo 4. -/
theorem nextIndexInRangeIsModulo : Obligations.NextIndexInRangeIsModulo := by
  intro i
  refine ⟨indexInt_bounds _, fun h0 h3 => ?_⟩
  obtain rfl | rfl | rfl | rfl : i = 0 ∨ i = 1 ∨ i = 2 ∨ i = 3 := by omega
  all_goals rfl

/-- The two directions of a step give complementary phases (R80). -/
theorem nextPhase_step_false_eq_invert2 (i : Int) : nextPhase true false i = invert2 (nextPhase true true i) := by
  rw [nextPhase_step_false, nextPhase_step_true]

/-- Settles O11: the two arms differ in the complement only. -/
theorem directionInversionLaw : Obligations.DirectionInversionLaw :=
  nextPhase_step_false_eq_invert2

/-- Settles O12: the table-order column is the table after `NEXTINDEX`, and the complement-order column its complement. -/
theorem nextPhaseValueTable : Obligations.NextPhaseValueTable := by
  intro i
  refine ⟨⟨nextPhase_noStep _ i, nextPhase_noStep _ i⟩, ?_, ?_⟩
  · rw [nextPhase_step_true, forward_nextIndex]
  · rw [nextPhase_step_false, forward_nextIndex]
    split_ifs <;> rfl

/-- Settles O13: each command's rule is its arm of `NEXTPHASE`; the transitions follow the cycle. -/
theorem axisCommandPhases : Obligations.AxisCommandPhases :=
  ⟨fun dir i => ⟨rfl, (nextPhase_noStep dir i).symm⟩, fun i => ⟨rfl, (nextPhase_step_true i).symm⟩,
    fun i => ⟨rfl, (nextPhase_step_false i).symm⟩, rfl, rfl⟩

/-! ### A step command as a move round the cycle -/

/-- The places a step moves the index: one forward in table order, one back in complement order (R84, R85). -/
def stepPlaces (dir : Bool) : Index :=
  if dir then 1 else -1

@[simp] theorem stepPlaces_true : stepPlaces true = 1 := rfl
@[simp] theorem stepPlaces_false : stepPlaces false = -1 := rfl

/-- Complement order is table order backwards: the complement of the next place is the place before (R85). -/
theorem nextPhase_step_false_indexInt (i : Index) : nextPhase true false (indexInt i) = forward (i - 1) := by
  have hback : i + 1 + 2 = i - 1 := by
    obtain rfl | rfl | rfl | rfl := twoBit_cases i <;> rfl
  rw [nextPhase_step_false, nextIndex_indexInt, invert2_eq_not, ← forward_add_two, hback]

/-- A step in either direction moves the index by one place. -/
theorem nextPhase_step_indexInt (dir : Bool) (i : Index) : nextPhase true dir (indexInt i) = forward (i + stepPlaces dir) := by
  cases dir with
  | true => rw [nextPhase_step_true, nextIndex_indexInt, stepPlaces_true]
  | false => rw [nextPhase_step_false_indexInt, stepPlaces_false, sub_eq_add_neg]

/-- A step command moves the axis by one place in the command's direction. -/
theorem axNext_of_step {cmd : CmdField} (p : Phase) (h : bit cmd 1 = true) :
    axNext cmd p = forward (inverse p + stepPlaces (bit cmd 0)) := by
  rw [axNext, h, nextPhase_step_indexInt]

/-- A step command changes exactly one bit of the phase (R84, R85 with R67). -/
theorem axNext_differInOneBit {cmd : CmdField} (p : Phase) (h : bit cmd 1 = true) : DifferInOneBit (axNext cmd p) p := by
  rw [axNext_of_step p h]
  cases bit cmd 0 with
  | true =>
    have hsucc := (forward_differInOneBit_succ (inverse p)).symm
    rwa [forward_inverse] at hsucc
  | false =>
    have hpred := forward_differInOneBit_succ (inverse p - 1)
    rwa [sub_add_cancel, forward_inverse, sub_eq_add_neg] at hpred

/-- Settles O14: the idle columns are 0, the step columns the two directions of the cycle. -/
theorem axisTransitionTable : Obligations.AxisTransitionTable := rfl

/-- One to three places of one kind lead away from an index, four lead back to it. -/
theorem stepPlaces_period (dir : Bool) (i : Index) :
    i + stepPlaces dir + stepPlaces dir + stepPlaces dir + stepPlaces dir = i ∧ i + stepPlaces dir ≠ i ∧
      i + stepPlaces dir + stepPlaces dir ≠ i ∧ i + stepPlaces dir + stepPlaces dir + stepPlaces dir ≠ i := by
  revert dir i
  decide

/-- A step command has period four (R88, R89). -/
theorem axNext_period {cmd : CmdField} (p : Phase) (h : bit cmd 1 = true) :
    axNext cmd (axNext cmd (axNext cmd (axNext cmd p))) = p ∧ axNext cmd p ≠ p ∧ axNext cmd (axNext cmd p) ≠ p ∧
      axNext cmd (axNext cmd (axNext cmd p)) ≠ p := by
  obtain ⟨i, rfl⟩ : ∃ i, p = forward i := ⟨inverse p, (forward_inverse p).symm⟩
  simpa only [axNext_of_step _ h, inverse_forward, forward_inj, ne_eq] using stepPlaces_period (bit cmd 0) i

/-- Only an idle call at phase 0 leaves the phase as it is (R90). -/
theorem axNext_eq_self_iff (p : Phase) (cmd : CmdField) : axNext cmd p = p ↔ p = 0 ∧ bit cmd 1 = false := by
  cases h : bit cmd 1 with
  | false =>
    rw [axNext_idle p h]
    exact ⟨fun hp => ⟨hp.symm, rfl⟩, fun ⟨hp, _⟩ => hp.symm⟩
  | true => simp [(axNext_differInOneBit p h).ne]

/-- Settles O15: all four laws are facts about one place forward or back on the cycle. -/
theorem axisCycleLaws : Obligations.AxisCycleLaws := by
  have hstepc : ∀ p, axNext 0b10 p = forward (inverse p - 1) := fun p =>
    (axNext_of_step p rfl).trans (congrArg forward (sub_eq_add_neg _ _).symm)
  have hstept : ∀ p, axNext 0b11 p = forward (inverse p + 1) := fun p => axNext_of_step p rfl
  refine ⟨nextPhase_step_false_indexInt, fun p => ⟨?_, ?_⟩, fun p cmd hcmd => ?_, axNext_eq_self_iff⟩
  · rw [hstept, hstepc, inverse_forward, add_sub_cancel_right, forward_inverse]
  · rw [hstepc, hstept, inverse_forward, sub_add_cancel, forward_inverse]
  · obtain rfl | rfl := hcmd <;> exact axNext_period p rfl

end Sys2Proof.Machine
end

section
/-! SUPPORT. Positions and masks of a byte: every position is in one slot or in none, and `PT_MASK` (R58) selects those in
none. Then the obligations of `42_multi_axis_compositor.md` about `SETAXISPHASE` and `COMPOSITE`. -/

namespace Sys2Proof.Machine

/-! ### One slot -/

theorem gather_congr {u v : Byte} {sb db : Nat} (hs : bit u sb = bit v sb) (hd : bit u db = bit v db) :
    gather u sb db = gather v sb db := by
  rw [gather, gather, hs, hd]

/-- A scatter does not read the two bits it clears. -/
theorem scatter_congr {r r' : Byte} {sb db : Nat} (p : BitVec 2) (hne : sb ≠ db)
    (h : ∀ n, n < 8 → n ≠ sb → n ≠ db → bit r n = bit r' n) : scatter r sb db p = scatter r' sb db p := by
  apply BitVec.eq_of_getLsbD_eq
  intro n hn
  rw [getLsbD_scatter r p hne hn, getLsbD_scatter r' p hne hn]
  split_ifs with hns hnd
  · rfl
  · rfl
  · exact h n hn hns hnd

/-- Settles O17: the next phase is read off two bits of the input and two of the state, and the scatter keeps the rest. -/
theorem setAxisPhaseReadsOnlyItsSlot : Obligations.SetAxisPhaseReadsOnlyItsSlot := by
  intro input input' state state' result result' sb db _ _ hne hstep hdir hstateStep hstateDir hresult
  rw [setAxisPhase_eq_scatter, setAxisPhase_eq_scatter, hstep, hdir, gather_congr hstateStep hstateDir]
  exact scatter_congr _ hne hresult

/-- A flag at a position, as a mask (R95). -/
theorem bitByte_shiftLeft (b : Bool) (k : Nat) : bitByte b <<< k = if b then 1#8 <<< k else 0 := by
  cases b
  · exact BitVec.zero_shiftLeft k
  · rfl

/-- The bits of a mask of one position. -/
theorem bit_one_shiftLeft (k n : Nat) : bit (1#8 <<< k) n = (decide (k < 8) && decide (k = n)) := by
  rw [← BitVec.twoPow_eq]
  exact BitVec.getLsbD_twoPow k n

/-- Masks without a common bit, said bit by bit. -/
theorem and_eq_zero_of_bits {u v : Byte} (h : ∀ n, bit u n = true → bit v n = false) : u &&& v = 0 := by
  apply BitVec.eq_of_getLsbD_eq
  intro n _
  rw [BitVec.getLsbD_and, show (0 : Byte) = 0#8 from rfl, BitVec.getLsbD_zero]
  cases hu : u.getLsbD n with
  | false => rfl
  | true => exact h n hu

/-- Masks without a common bit are combined alike by exclusive or and by or. -/
theorem xor_eq_or_of_and_eq_zero {u v : Byte} (h : u &&& v = 0) : u ^^^ v = u ||| v := by
  apply BitVec.eq_of_getLsbD_eq
  intro n _
  have hn : (u.getLsbD n && v.getLsbD n) = false := by
    rw [← BitVec.getLsbD_and, h]
    exact BitVec.getLsbD_zero
  rw [BitVec.getLsbD_xor, BitVec.getLsbD_or]
  revert hn
  cases u.getLsbD n <;> simp

/-- The bytes of the mask form: a flag at position `k` has no bit elsewhere. -/
theorem bit_flagMask_ne {b : Bool} {k n : Nat} (h : n ≠ k) : bit (if b then 1#8 <<< k else 0) n = false := by
  cases b with
  | false => exact BitVec.getLsbD_zero
  | true => simp [bit_one_shiftLeft, Ne.symm h]

/-- A byte cleared at two positions has no bit there. -/
theorem ne_of_bit_cleared {r : Byte} {sb db n : Nat} (hs : sb < 8) (hd : db < 8)
    (h : bit (r &&& ~~~(1#8 <<< sb ||| 1#8 <<< db)) n = true) : n ≠ sb ∧ n ≠ db := by
  have hS := bit_one_shiftLeft sb n
  have hD := bit_one_shiftLeft db n
  unfold bit at h hS hD
  rw [BitVec.getLsbD_and, BitVec.getLsbD_not, BitVec.getLsbD_or, hS, hD] at h
  constructor
  · rintro rfl
    simp [hs] at h
  · rintro rfl
    simp [hd] at h

/-- Settles O18: the or is the scatter written out, and its three parts have no bit in common. -/
theorem setAxisPhaseMaskForm : Obligations.SetAxisPhaseMaskForm := by
  intro input state result sb db hs hd hne np S D kept high low
  have hor : setAxisPhase input state result sb db = kept ||| high ||| low := by
    rw [setAxisPhase_eq_scatter, scatter, bitByte_shiftLeft, bitByte_shiftLeft]
  have hkeptHigh : kept &&& high = 0 := and_eq_zero_of_bits fun n hn => bit_flagMask_ne (ne_of_bit_cleared hs hd hn).1
  have hlow : (kept ||| high) &&& low = 0 := by
    refine and_eq_zero_of_bits fun n hn => bit_flagMask_ne ?_
    rintro rfl
    rw [bit, BitVec.getLsbD_or, Bool.or_eq_true] at hn
    obtain hn | hn := hn
    · exact (ne_of_bit_cleared hs hd hn).2 rfl
    · exact Bool.false_ne_true ((bit_flagMask_ne hne.symm).symm.trans hn)
  refine ⟨hor, ?_, ?_⟩
  · rw [hor, BitVec.add_eq_or_of_and_eq_zero _ _ hkeptHigh, BitVec.add_eq_or_of_and_eq_zero _ _ hlow]
  · rw [hor, xor_eq_or_of_and_eq_zero hkeptHigh, xor_eq_or_of_and_eq_zero hlow]

/-! ### Positions in a slot and in none -/

/-- A position is in the slot of one axis at most (R9). -/
theorem inSlot_unique {c : Config} {a b : Axis} {n : Nat} (ha : inSlot c a n) (hb : inSlot c b n) : a = b := by
  by_contra hab
  obtain ⟨hss, hsd, hds, hdd⟩ := c.slots_disjoint hab
  unfold inSlot at ha hb
  omega

theorem inSlot_lt {c : Config} {a : Axis} {n : Nat} (h : inSlot c a n) : n < 8 := by
  obtain rfl | rfl := h
  · exact (c.positions_lt a).1
  · exact (c.positions_lt a).2

/-- Every position of a byte is in the slot of some axis or is a pass-through position (R52). -/
theorem inSlot_or_passThrough (c : Config) {n : Nat} (hn : n < 8) : (∃ a, inSlot c a n) ∨ passThrough c n := by
  by_cases h : ∃ a, inSlot c a n
  · exact .inl h
  · exact .inr ⟨hn, fun a ha => h ⟨a, ha⟩⟩

theorem axPhase_congr {c : Config} {u v : Byte} {a : Axis} (h : ∀ n, inSlot c a n → bit u n = bit v n) :
    axPhase c u a = axPhase c v a :=
  gather_congr (h _ (.inl rfl)) (h _ (.inr rfl))

/-- Bytes with the same phase of an axis agree in the axis's slot. -/
theorem bit_congr_of_axPhase {c : Config} {u v : Byte} {a : Axis} {n : Nat} (h : axPhase c u a = axPhase c v a)
    (hn : inSlot c a n) : bit u n = bit v n := by
  obtain rfl | rfl := hn
  · rw [← bit_axPhase_one, h, bit_axPhase_one]
  · rw [← bit_axPhase_zero, h, bit_axPhase_zero]

/-- Bytes that agree outside one axis's slot have the same phases of the other axes. -/
theorem axPhase_congr_of_agreeOutside {c : Config} {a b : Axis} {u v : Byte} (h : agreeOutside c a u v) (hb : b ≠ a) :
    axPhase c u b = axPhase c v b :=
  axPhase_congr fun n hn => h n (inSlot_lt hn) fun ha => hb (inSlot_unique hn ha)

/-! ### The masks of R58 -/

theorem bit_slotMask (c : Config) (a : Axis) (n : Nat) : bit (slotMask c a) n = true ↔ inSlot c a n := by
  have hstep : bit (stepMask c a) n = decide (n = (c.slot a).stepBit) := by
    simp [stepMask, bit_one_shiftLeft, (c.positions_lt a).1, eq_comm]
  have hdir : bit (dirMask c a) n = decide (n = (c.slot a).dirBit) := by
    simp [dirMask, bit_one_shiftLeft, (c.positions_lt a).2, eq_comm]
  unfold bit at *
  simp [slotMask, hstep, hdir, inSlot]

theorem bit_axisMask (c : Config) (n : Nat) : bit (axisMask c) n = true ↔ ∃ a, inSlot c a n := by
  have hor : bit (axisMask c) n = (bit (slotMask c .x) n || bit (slotMask c .y) n || bit (slotMask c .z) n) := by
    simp [bit, axisMask]
  rw [hor, Bool.or_eq_true, Bool.or_eq_true, bit_slotMask, bit_slotMask, bit_slotMask]
  constructor
  · rintro ((h | h) | h)
    exacts [⟨_, h⟩, ⟨_, h⟩, ⟨_, h⟩]
  · rintro ⟨a, h⟩
    cases a <;> simp [h]

/-- `PT_MASK` selects the pass-through positions (R58, R52). -/
theorem bit_passMask (c : Config) (n : Nat) : bit (passMask c) n = true ↔ passThrough c n := by
  have hnot : bit (passMask c) n = (decide (n < 8) && !bit (axisMask c) n) := BitVec.getLsbD_not
  rw [hnot, Bool.and_eq_true, decide_eq_true_eq, Bool.not_eq_true', ← Bool.not_eq_true, bit_axisMask, passThrough,
    not_exists]

theorem bit_and_passMask_passThrough {c : Config} (v : Byte) {n : Nat} (h : passThrough c n) :
    bit (v &&& passMask c) n = bit v n := by
  have hmask : (passMask c).getLsbD n = true := (bit_passMask c n).2 h
  rw [bit, BitVec.getLsbD_and, hmask, Bool.and_true, bit]

/-- The byte 0 has every axis at phase 0. -/
@[simp] theorem axPhase_zero (c : Config) (a : Axis) : axPhase c 0 a = 0 :=
  twoBit_ext ((bit_axPhase_one c 0 a).trans BitVec.getLsbD_zero) ((bit_axPhase_zero c 0 a).trans BitVec.getLsbD_zero)

/-- A byte masked to the pass-through positions has every axis at phase 0. -/
@[simp] theorem axPhase_and_passMask (c : Config) (v : Byte) (a : Axis) : axPhase c (v &&& passMask c) a = 0 := by
  have hclear : ∀ n, inSlot c a n → bit (v &&& passMask c) n = bit (0 : Byte) n := by
    intro n hn
    have hmask : (passMask c).getLsbD n = false :=
      Bool.eq_false_iff.2 fun h => ((bit_passMask c n).1 h).2 a hn
    rw [bit, BitVec.getLsbD_and, hmask, Bool.and_false]
    exact BitVec.getLsbD_zero.symm
  rw [axPhase_congr hclear, axPhase_zero]

/-- Bytes that agree at the pass-through positions agree under `PT_MASK`. -/
theorem and_passMask_congr {c : Config} {u v : Byte} (h : ∀ n, passThrough c n → bit u n = bit v n) :
    u &&& passMask c = v &&& passMask c := by
  apply byte_ext c
  · intro a
    rw [axPhase_and_passMask, axPhase_and_passMask]
  · intro n hn
    exact (bit_and_passMask_passThrough u hn).trans ((h n hn).trans (bit_and_passMask_passThrough v hn).symm)

/-! ### The result of `COMPOSITE` -/

/-- The lanes and the pass-through bits define the result (R102). -/
theorem eq_composite_iff {c : Config} {w s r : Byte} : r = composite c w s ↔
    (∀ a, axPhase c r a = axNext (cmdField c w a) (axPhase c s a)) ∧ ∀ n, passThrough c n → bit r n = bit w n := by
  constructor
  · rintro rfl
    exact ⟨axPhase_composite c w s, fun n hn => bit_composite_passThrough c w s hn⟩
  · rintro ⟨hlanes, hpass⟩
    apply byte_ext c
    · intro a
      rw [hlanes, axPhase_composite]
    · intro n hn
      exact (hpass n hn).trans (bit_composite_passThrough c w s hn).symm

/-- Settles O20: the lanes and the pass-through bits are all the bits of a byte. -/
theorem compositeIsItsLanes : Obligations.CompositeIsItsLanes :=
  fun _ _ _ _ => eq_composite_iff

/-- Three different axes are all of them (R8). -/
theorem axis_exhausted {a b d : Axis} (hab : a ≠ b) (hbd : b ≠ d) (had : a ≠ d) (e : Axis) : e = a ∨ e = b ∨ e = d := by
  cases a <;> cases b <;> cases d <;> cases e <;> simp at *

/-- Settles O19: whatever the order, each slot is written once with its axis's next phase and the other bits are kept. -/
theorem axisOrderCannotBeObserved : Obligations.AxisOrderCannotBeObserved := by
  intro c w s a b d hab hbd had
  simp only [applyAxis_eq]
  refine eq_composite_iff.2 ⟨fun e => ?_, fun n hn => ?_⟩
  · obtain rfl | rfl | rfl := axis_exhausted hab hbd had e
    · rw [axPhase_putSlot_self]
    · rw [axPhase_putSlot_ne c _ hab.symm, axPhase_putSlot_self]
    · rw [axPhase_putSlot_ne c _ had.symm, axPhase_putSlot_ne c _ hbd.symm, axPhase_putSlot_self]
  · obtain ⟨hlt, hout⟩ := hn
    unfold bit
    rw [getLsbD_putSlot_outside c _ a _ hlt (hout a), getLsbD_putSlot_outside c _ b _ hlt (hout b),
      getLsbD_putSlot_outside c _ d _ hlt (hout d)]

/-- Settles O21: a bit outside the slot is in another axis's slot, which depends on that slot alone, or passes through. -/
theorem axesDoNotInterfere : Obligations.AxesDoNotInterfere := by
  intro c a w w' s s' hw hs n hn hna
  obtain ⟨b, hb⟩ | hpass := inSlot_or_passThrough c hn
  · have hba : b ≠ a := fun h => hna (h ▸ hb)
    refine bit_congr_of_axPhase ?_ hb
    rw [axPhase_composite, axPhase_composite, cmdField_eq_axPhase, cmdField_eq_axPhase,
      axPhase_congr_of_agreeOutside hw hba, axPhase_congr_of_agreeOutside hs hba]
  · rw [bit_composite_passThrough c w s hpass, bit_composite_passThrough c w' s' hpass]
    exact hw n hn hna

/-- The result depends on the state through its slots only (R103). -/
theorem composite_congr_state {c : Config} {s s' : Byte} (w : Byte) (h : agreeOnSlots c s s') :
    composite c w s = composite c w s' := by
  refine eq_composite_iff.2 ⟨fun a => ?_, fun n hn => bit_composite_passThrough c w s hn⟩
  rw [axPhase_composite, h a]

/-- The pass-through bits of the result are those of the input, in the mask form. -/
theorem composite_and_passMask (c : Config) (w s : Byte) : composite c w s &&& passMask c = w &&& passMask c :=
  and_passMask_congr fun _ hn => bit_composite_passThrough c w s hn

theorem passMask_reference : passMask Config.reference = 0x03 := rfl

/-- Settles O22: the bits, their independence of the state, and the mask form for the mask of `SLOTS_REF`. -/
theorem passThroughBitsCopied : Obligations.PassThroughBitsCopied := by
  refine ⟨fun c w s _ hn => bit_composite_passThrough c w s hn, fun c w _ _ h => composite_congr_state w h, fun w s => ?_⟩
  rw [← passMask_reference]
  exact composite_and_passMask Config.reference w s

/-- A word without a step command leaves its own pass-through bits and nothing else (R105). -/
theorem composite_of_noStep {c : Config} {w : Byte} (s : Byte) (h : ∀ a, stepFlag c w a = false) :
    composite c w s = w &&& passMask c := by
  apply byte_ext c
  · intro a
    rw [axPhase_composite_idle s (h a), axPhase_and_passMask]
  · intro n hn
    exact (bit_composite_passThrough c w s hn).trans (bit_and_passMask_passThrough w hn).symm

/-- The word 0 puts every bit to 0. -/
@[simp] theorem composite_zero (c : Config) (s : Byte) : composite c 0 s = 0 := by
  rw [composite_of_noStep (w := 0) s fun _ => BitVec.getLsbD_zero]
  exact BitVec.zero_and

/-- Settles O23: every lane is at phase 0, so the mask is what remains. -/
theorem allIdleLeavesPassThroughOnly : Obligations.AllIdleLeavesPassThroughOnly :=
  ⟨fun _ _ s h => composite_of_noStep s h, fun c => composite_zero c 0⟩

/-! ### One axis under `COMPOSITE` -/

/-- Settles O26: the slot's two bits are the two bits of the phase, and a step changes one of them. -/
theorem stepChangesOneBitOfThePhase : Obligations.StepChangesOneBitOfThePhase := by
  intro c w s a hstep
  have hdiffer := axNext_differInOneBit (axPhase c s a) ((bit_cmdField_one c w a).trans hstep)
  rw [← axPhase_composite] at hdiffer
  simp only [← bit_axPhase_one, ← bit_axPhase_zero]
  exact Ne.symm hdiffer

/-- Settles O27: an idle lane is at phase 0, and the next step moves one place from index 0. -/
theorem idleCallLosesThePosition : Obligations.IdleCallLosesThePosition := by
  intro c w1 w2 s a hidle
  have hzero := axPhase_composite_idle s hidle
  refine ⟨hzero, ?_, fun hstep => ?_⟩
  · rw [axIndex, hzero]
    rfl
  · rw [axPhase_composite, hzero, axNext_of_step 0 ((bit_cmdField_one c w2 a).trans hstep), bit_cmdField_zero]
    cases dirFlag c w2 a <;> rfl

end Sys2Proof.Machine
end

section
/-! SUPPORT. The meanings of the rows: every lane row answers the conversion of its word, and leaves its own lane at the
phase its rule gives. Then the obligations about the meanings (`30_encoding.md` section 2, `41_single_axis_stepper.md`
section 4, `43_converter.md` section 1). -/

namespace Sys2Proof.Machine

/-- The rule of a command, as a function of the axis's index (R81 to R83). -/
def commandRule : AxisCmd → Int → Phase
  | .idle _ => axIdlePhase
  | .stept => axSteptPhase
  | .stepc => axStepcPhase

/-- `AXNEXT` of a command's field is the command's rule (R86 with R81 to R83). -/
theorem axNext_encodeField (cmd : AxisCmd) (p : Phase) :
    axNext (encodeField cmd) p = commandRule cmd (indexInt (inverse p)) := by
  cases cmd with
  | idle dir => exact axNext_idle p (by cases dir <;> rfl)
  | stept => exact nextPhase_step_true _
  | stepc => exact nextPhase_step_false _

theorem exec_fieldInstr (a : Axis) (cmd : AxisCmd) (rest : Byte) (s : State) :
    exec (fieldInstr a rest cmd) s = .next (laneState a cmd (commandRule cmd) rest s) := by
  cases cmd <;> rfl

theorem exec_laneInstr (a : Axis) (cmd : AxisCmd) (rest : Byte) (s : State) :
    exec (laneInstr a rest cmd) s = .next (laneState a cmd (commandRule cmd) rest s) := by
  cases a <;> cases cmd <;> rfl

/-- A lane row is the conversion of its word: its own rule gives what `AXNEXT` of its field gives (R56). -/
theorem laneState_eq_convertState (a : Axis) (cmd : AxisCmd) (rest : Byte) (s : State) :
    laneState a cmd (commandRule cmd) rest s = convertState (laneWord s.config a cmd rest) s := by
  refine State.ext_fields ?_ rfl rfl
  rw [laneState_curPhase, convertState_curPhase, composite_eq_assemble, laneComposite]
  congr 1
  funext b
  by_cases hb : b = a
  · subst hb
    rw [if_pos rfl, Laws.MatchesRow.cmdField_laneWord, axNext_encodeField, axIndex]
  · rw [if_neg hb]

/-- Settles O33: a reading cuts the word into a command and its other bits, and the row puts them together again. -/
theorem everyReadingRunsTheWholeWord : Obligations.EveryReadingRunsTheWholeWord := by
  intro s r w
  cases r with
  | word => rfl
  | field a => rw [decodeAs, exec_fieldInstr, laneState_eq_convertState, laneWord_decodeField, decode, exec_convert]
  | lane a => rw [decodeAs, exec_laneInstr, laneState_eq_convertState, laneWord_decodeField, decode, exec_convert]

/-- Settles O29: the lanes and the pass-through bits of the one write that a conversion is. -/
theorem convertLaneView : Obligations.ConvertLaneView := fun w s =>
  ⟨convertState w s, exec_convert w s, axPhase_composite s.config w s.curPhase,
    fun _ hn => bit_composite_passThrough s.config w s.curPhase hn, convertState_config w s, convertState_edges w s⟩

section
variable (a : Axis) (cmd : AxisCmd) (rule : Int → Phase) (rest : Byte) (s : State)

/-- What a lane row leaves, lane by lane, and what it does not touch. -/
theorem laneResult_laneState :
    LaneResult s (laneState a cmd rule rest s) a (rule (indexInt (axIndex s.config s.curPhase a))) rest :=
  ⟨axPhase_laneState_self a cmd rule rest s, fun _ hb => axPhase_laneState_ne hb cmd rule rest s,
    fun _ hn => getLsbD_laneState_passThrough a cmd rule rest s hn, laneState_config .., laneState_edges ..⟩

theorem axIndex_laneState_self :
    axIndex s.config (laneState a cmd rule rest s).curPhase a =
      inverse (rule (indexInt (axIndex s.config s.curPhase a))) := by
  rw [axIndex, axPhase_laneState_self]

end

/-- A table-order step from an index of the range moves it one place forward. -/
theorem inverse_axSteptPhase (i : Index) : inverse (axSteptPhase (indexInt i)) = i + 1 := by
  rw [axSteptPhase, inverse_forward, nextIndex_indexInt]

/-- A complement-order step from an index of the range moves it one place back. -/
theorem inverse_axStepcPhase (i : Index) : inverse (axStepcPhase (indexInt i)) = i - 1 := by
  rw [axStepcPhase, ← nextPhase_step_false, nextPhase_step_false_indexInt, inverse_forward]

/-- An `IDLE` row in any lane. -/
theorem axIdle_laneResult (dir : Bool) (rest : Byte) (s : State) (a : Axis) :
    ∃ t, execAxIdle a dir rest s = .next t ∧ LaneResult s t a 0 rest ∧ axIndex s.config t.curPhase a = 0 :=
  ⟨_, rfl, laneResult_laneState a (.idle dir) axIdlePhase rest s, axIndex_laneState_self a (.idle dir) axIdlePhase rest s⟩

/-- A `STEPT` row in any lane. -/
theorem axStept_laneResult (rest : Byte) (s : State) (a : Axis) :
    ∃ t, execAxStept a rest s = .next t ∧
      LaneResult s t a (forward (nextIndex (indexInt (axIndex s.config s.curPhase a)))) rest ∧
      axIndex s.config t.curPhase a = axIndex s.config s.curPhase a + 1 :=
  ⟨_, rfl, laneResult_laneState a .stept axSteptPhase rest s,
    (axIndex_laneState_self a .stept axSteptPhase rest s).trans (inverse_axSteptPhase _)⟩

/-- A `STEPC` row in any lane. -/
theorem axStepc_laneResult (rest : Byte) (s : State) (a : Axis) :
    ∃ t, execAxStepc a rest s = .next t ∧
      LaneResult s t a (invert2 (forward (nextIndex (indexInt (axIndex s.config s.curPhase a))))) rest ∧
      axIndex s.config t.curPhase a = axIndex s.config s.curPhase a - 1 :=
  ⟨_, rfl, laneResult_laneState a .stepc axStepcPhase rest s,
    (axIndex_laneState_self a .stepc axStepcPhase rest s).trans (inverse_axStepcPhase _)⟩

/-- Settles O30: the row of a named lane has the meaning of `AX.IDLE` in that lane. -/
theorem idleRowsPutTheLaneAtPhaseZero : Obligations.IdleRowsPutTheLaneAtPhaseZero := fun dir rest s =>
  have row := axIdle_laneResult dir rest s
  ⟨row, row .x, row .y, row .z⟩

/-- Settles O31: the row of a named lane has the meaning of `AX.STEPT` in that lane. -/
theorem tableOrderRowsAdvanceTheLane : Obligations.TableOrderRowsAdvanceTheLane := fun rest s =>
  have row := axStept_laneResult rest s
  ⟨row, row .x, row .y, row .z⟩

/-- Settles O32: the row of a named lane has the meaning of `AX.STEPC` in that lane. -/
theorem complementOrderRowsMoveTheLaneBack : Obligations.ComplementOrderRowsMoveTheLaneBack := fun rest s =>
  have row := axStepc_laneResult rest s
  ⟨row, row .x, row .y, row .z⟩

end Sys2Proof.Machine
end

section
/-! SUPPORT. The step, one equation for each kind of edge, and what a step can write. Then the obligations about the step,
its invariants and reset (`10_state.md` section 1, `43_converter.md` section 1, `60_exceptions.md` sections 1 and 3,
`70_reset_and_hazards.md` section 1). -/

namespace Sys2Proof.Machine

theorem step_of_noEdge {s : State} (h : s.edges = []) : step s = .next s :=
  clockEdge_nil _ s h

section
variable {s : State} {e : Edge} {rest : List Edge} (h : s.edges = e :: rest)
include h

/-- A reset edge, whatever else it carries (R124, R134). -/
theorem step_of_rst (hr : e.rst = true) : step s = .next { s with curPhase := 0x00, edges := rest } := by
  rw [step, clockEdge_cons _ s e rest h, if_pos hr]
  rfl

/-- A conversion edge (R117). -/
theorem step_of_tick (hr : e.rst = false) (ht : e.tick = true) :
    step s = exec (decode e.sdIn) { s with edges := rest } := by
  rw [step, clockEdge_cons _ s e rest h, hr, ht]
  rfl

/-- An edge without a request (R117). -/
theorem step_of_noRequest (hr : e.rst = false) (ht : e.tick = false) : step s = .next { s with edges := rest } := by
  rw [step, clockEdge_cons _ s e rest h, hr, ht]
  rfl

end

/-- Settles O39: the equation of a conversion edge. -/
theorem stepRunsTheDecodedWord : Obligations.StepRunsTheDecodedWord :=
  fun _ _ _ h hr ht => step_of_tick h hr ht

/-- Settles O40: the equation of a reset edge. -/
theorem resetWinsOverTick : Obligations.ResetWinsOverTick :=
  fun _ _ _ h hr => step_of_rst h hr

/-- Settles O41: the equations of an edge without a request and of no edge. -/
theorem noRequestChangesNothing : Obligations.NoRequestChangesNothing :=
  ⟨fun _ _ _ h hr ht => step_of_noRequest h hr ht, fun _ h => step_of_noEdge h⟩

/-- Settles O42: the placed edge is a conversion edge, and taking it off leaves the original state. -/
theorem fetchWordRunsNext : Obligations.FetchWordRunsNext := by
  intro s nbits w hlen
  refine ⟨decode (tableByte nbits w), if_pos hlen, ?_⟩
  rw [step_of_tick (withFetchWord_edges s nbits w) rfl rfl]
  rfl

/-- Every row answers a next state. -/
theorem exec_completes (i : Instr) (s : State) : Completes (exec i s) := by
  cases i <;> exact ⟨_, rfl⟩

/-- Settles O34: each kind of edge has its next state, that of a conversion edge by the row it runs. -/
theorem everyStepGoesOn : Obligations.EveryStepGoesOn := by
  refine ⟨fun s => ?_, exec_completes⟩
  rw [Safe]
  cases he : s.edges with
  | nil => exact ⟨_, step_of_noEdge he⟩
  | cons e rest =>
    cases hr : e.rst with
    | true => exact ⟨_, step_of_rst he hr⟩
    | false =>
      cases ht : e.tick with
      | true =>
        rw [step_of_tick he hr ht]
        exact exec_completes _ _
      | false => exact ⟨_, step_of_noRequest he hr ht⟩

/-- Settles O43: the four kinds of step, of which a reset and a conversion write the register. -/
theorem registerHasTwoWriters : Obligations.RegisterHasTwoWriters := by
  intro s t hstep
  obtain ⟨he, rfl⟩ | ⟨e, rest, he, hr, rfl⟩ | ⟨e, rest, he, hr, ht, rfl⟩ | ⟨e, rest, he, hr, ht, rfl⟩ := step_cases hstep
  · exact ⟨rfl, by rw [he, List.tail_nil], .inl rfl⟩
  · exact ⟨rfl, by rw [he, List.tail_cons]; rfl, .inr ⟨e, by rw [he, List.head?_cons], .inl ⟨hr, rfl⟩⟩⟩
  · exact ⟨rfl, by rw [he, List.tail_cons]; rfl, .inr ⟨e, by rw [he, List.head?_cons], .inr ⟨hr, ht, rfl⟩⟩⟩
  · exact ⟨rfl, by rw [he, List.tail_cons], .inl rfl⟩

/-! ### The two invariants -/

/-- Settles O44: a reset clears the register, and a pending word that converts leaves the axis idle. -/
theorem restingAxisKeepsResting : Obligations.RestingAxisKeepsResting := by
  rintro s t a ⟨hphase, hpending⟩ hstep
  obtain ⟨hconfig, hedges, hreg⟩ := registerHasTwoWriters s t hstep
  refine ⟨?_, fun e he => ?_⟩
  · rw [hconfig]
    obtain hsame | ⟨e, he, ⟨_, hzero⟩ | ⟨hr, ht, hconv⟩⟩ := hreg
    · rw [hsame, hphase]
    · rw [hzero]
      exact axPhase_zero s.config a
    · rw [hconv]
      exact axPhase_composite_idle s.curPhase (hpending e (List.mem_of_mem_head? he) hr ht)
  · rw [hconfig]
    exact hpending e (List.mem_of_mem_tail (hedges ▸ he))

/-- Settles O45: a reset clears the register, and a conversion takes the pass-through bits of its word. -/
theorem quietPassThroughStaysQuiet : Obligations.QuietPassThroughStaysQuiet := by
  rintro s t ⟨hquiet, hwords⟩ hstep
  obtain ⟨hconfig, hedges, hreg⟩ := registerHasTwoWriters s t hstep
  refine ⟨?_, fun e he => ?_⟩
  · rw [hconfig]
    obtain hsame | ⟨e, he, ⟨_, hzero⟩ | ⟨_, _, hconv⟩⟩ := hreg
    · rw [hsame, hquiet]
    · rw [hzero]
      exact BitVec.zero_and
    · rw [hconv, composite_and_passMask]
      exact hwords e (List.mem_of_mem_head? he)
  · rw [hconfig]
    exact hwords e (List.mem_of_mem_tail (hedges ▸ he))

/-- Settles O46: the register is 0 and no edge is listed. -/
theorem resetMeetsTheInvariants : Obligations.ResetMeetsTheInvariants := by
  intro c
  have hnone : ∀ e, e ∉ (State.resetAt c).edges := fun _ he => List.not_mem_nil he
  exact ⟨⟨BitVec.zero_and, fun e he => absurd he (hnone e)⟩,
    fun a => ⟨axPhase_zero c a, fun e he => absurd he (hnone e)⟩⟩

/-! ### Reset -/

/-- Settles O1: the byte 0 holds phase 0 in every slot. -/
theorem resetPutsEveryAxisAtPhaseZero : Obligations.ResetPutsEveryAxisAtPhaseZero := by
  refine ⟨fun c => ⟨rfl, rfl, fun a => ⟨axPhase_zero c a, ?_⟩⟩, fun s => ⟨rfl, rfl, rfl, axPhase_zero s.config⟩⟩
  rw [axIndex, resetAt_curPhase, axPhase_zero]
  rfl

/-- Settles O2: the word 0 idles every axis and carries no pass-through bit. -/
theorem resetActsAsConvertZero : Obligations.ResetActsAsConvertZero :=
  fun s => State.ext_fields (composite_zero s.config s.curPhase).symm rfl rfl

end Sys2Proof.Machine
end

section
/-! SUPPORT. The check of a configuration, read position by position, and the runs of the machine: a run over pending
conversions is the run function of R112, and what it does to one axis. Then the obligations of `00_scope.md` section 3,
`10_state.md` section 5, `43_converter.md` section 1 and `70_reset_and_hazards.md` section 3 about them, and the one of
`60_exceptions.md` section 6 about several converters. -/

namespace Sys2Proof.Machine

/-! ### The configuration -/

/-- The check passes exactly when all six positions are in range and different (R9). -/
theorem slots_wf_iff (slots : Slots) : slots.wf = true ↔
    (∀ a, (slots.slot a).stepBit < 8 ∧ (slots.slot a).dirBit < 8 ∧ (slots.slot a).stepBit ≠ (slots.slot a).dirBit) ∧
      ∀ a b, a ≠ b → (slots.slot a).stepBit ≠ (slots.slot b).stepBit ∧ (slots.slot a).stepBit ≠ (slots.slot b).dirBit ∧
        (slots.slot a).dirBit ≠ (slots.slot b).dirBit := by
  constructor
  · intro hwf
    let c : Config := { slots := slots, wf := hwf }
    refine ⟨fun a => ⟨(c.positions_lt a).1, (c.positions_lt a).2, c.step_ne_dir a⟩, fun a b hab => ?_⟩
    obtain ⟨hss, hsd, _, hdd⟩ := c.slots_disjoint hab
    exact ⟨hss, hsd, hdd⟩
  · rintro ⟨hown, hcross⟩
    have hx := hown .x
    have hy := hown .y
    have hz := hown .z
    have hxy := hcross .x .y (by decide)
    have hxz := hcross .x .z (by decide)
    have hyz := hcross .y .z (by decide)
    have hyx := (hcross .y .x (by decide)).2.1.symm
    have hzx := (hcross .z .x (by decide)).2.1.symm
    have hzy := (hcross .z .y (by decide)).2.1.symm
    simp only [Slots.slot] at hx hy hz hxy hxz hyz hyx hzx hzy
    simp [Slots.wf, Slots.positions, hx, hy, hz, hxy, hxz, hyz, hyx, hzx, hzy]

/-- Settles O47: the check decides, and building and start-up follow it. -/
theorem illFormedSlotsRefused : Obligations.IllFormedSlotsRefused := by
  intro slots input good
  constructor
  · intro hgood
    have hwf : slots.wf = true := (slots_wf_iff slots).2 hgood
    refine ⟨{ slots := slots, wf := hwf }, rfl, buildConfig_ok hwf, ?_⟩
    rw [startUp, buildConfig_ok hwf]
    rfl
  · intro hbad
    have hwf : slots.wf = false := Bool.eq_false_iff.2 fun h => hbad ((slots_wf_iff slots).1 h)
    refine ⟨buildConfig_error hwf, ?_⟩
    rw [startUp, buildConfig_error hwf]

/-! ### Runs over conversions -/

theorem run_succ_of_step {s t : State} (k : Nat) (h : step s = .next t) :
    Host.Core.run core (k + 1) s = Host.Core.run core k t := by
  have hcore : core.step s = .next t := h
  simp only [Host.Core.run, hcore]

/-- A step with a conversion edge in front. -/
theorem step_tickEdge (c : Config) (cur w : Byte) (more : List Edge) :
    step { curPhase := cur, config := c, edges := tickEdge w :: more } =
      .next { curPhase := composite c w cur, config := c, edges := more } := by
  rw [step_of_tick rfl rfl rfl]
  rfl

/-- The machine consumes its pending conversions one by one; its register is that of the run function (R112). -/
theorem run_conversions (c : Config) (ws : List Byte) (cur : Byte) (more : List Edge) :
    Host.Core.run core ws.length { curPhase := cur, config := c, edges := ws.map tickEdge ++ more } =
      .next { curPhase := runFinal c ws cur, config := c, edges := more } := by
  induction ws generalizing cur with
  | nil => rfl
  | cons w ws ih =>
    rw [List.length_cons, List.map_cons, List.cons_append, run_succ_of_step _ (step_tickEdge c cur w _), ih, runFinal]

@[simp] theorem length_runOutputs (c : Config) (ws : List Byte) (cur : Byte) : (runOutputs c ws cur).length = ws.length := by
  induction ws generalizing cur with
  | nil => rfl
  | cons w ws ih => rw [runOutputs, List.length_cons, List.length_cons, ih]

/-- Each output is the register after the words up to and including its own (R112). -/
theorem runOutputs_getElem? (c : Config) {ws : List Byte} {k : Nat} (cur : Byte) (h : k < ws.length) :
    (runOutputs c ws cur)[k]? = some (runFinal c (ws.take (k + 1)) cur) := by
  induction ws generalizing cur k with
  | nil => exact absurd h (Nat.not_lt_zero k)
  | cons w ws ih =>
    cases k with
    | zero => rfl
    | succ k => exact ih (composite c w cur) (Nat.lt_of_succ_lt_succ h)

/-- Settles O48: the machine run over all words, and over the first `k + 1` of them. -/
theorem machineRunIsTheRunFunction : Obligations.MachineRunIsTheRunFunction := by
  intro c ws
  refine ⟨?_, length_runOutputs c ws 0, fun k hk => ?_⟩
  · simpa only [List.append_nil] using run_conversions c ws 0 []
  · refine ⟨{ curPhase := runFinal c (ws.take (k + 1)) 0, config := c, edges := (ws.drop (k + 1)).map tickEdge }, ?_,
      runOutputs_getElem? c 0 hk⟩
    have hrun := run_conversions c (ws.take (k + 1)) 0 ((ws.drop (k + 1)).map tickEdge)
    rwa [← List.map_append, List.take_append_drop, List.length_take_of_le hk] at hrun

/-- Settles O49: the first conversion already gives the same byte, and the rest of the run starts from it. -/
theorem outputsDependOnSlotBitsOnly : Obligations.OutputsDependOnSlotBitsOnly := by
  intro c ws cur cur' h
  cases ws with
  | nil => rfl
  | cons w ws => rw [runOutputs, runOutputs, composite_congr_state w h]

/-! ### Every byte in two conversions -/

/-- A command that brings an axis from phase 0 to where one more command leads to phase `p`: a step for phase 3 only. -/
def firstCommand (p : Phase) : CmdField :=
  if p = 3 then 0b11 else 0b00

/-- The command that then leads to phase `p`. -/
def secondCommand (p : Phase) : CmdField :=
  if p = 0 then 0b00 else if p = 2 then 0b10 else 0b11

theorem axNext_secondCommand_firstCommand (p : Phase) : axNext (secondCommand p) (axNext (firstCommand p) 0) = p := by
  obtain rfl | rfl | rfl | rfl := twoBit_cases p <;> rfl

/-- The word that holds each axis's first command on the way to the byte `b`. -/
def firstWord (c : Config) (b : Byte) : Byte :=
  assemble c (fun a => firstCommand (axPhase c b a)) 0

/-- The word that holds each axis's second command on the way to the byte `b`, and the pass-through bits of `b`. -/
def secondWord (c : Config) (b : Byte) : Byte :=
  assemble c (fun a => secondCommand (axPhase c b a)) b

theorem composite_secondWord_firstWord (c : Config) (b : Byte) :
    composite c (secondWord c b) (composite c (firstWord c b) 0) = b := by
  refine (eq_composite_iff.2 ⟨fun a => ?_, fun n hn => ?_⟩).symm
  · rw [axPhase_composite, axPhase_zero, cmdField_eq_axPhase, cmdField_eq_axPhase, secondWord, firstWord, axPhase_assemble,
      axPhase_assemble, axNext_secondCommand_firstCommand]
  · exact (getLsbD_assemble_passThrough c _ b hn).symm

/-- Settles O52: each lane is brought to its phase by two commands, and the second word carries the pass-through bits. -/
theorem everyRegisterValueIsReachable : Obligations.EveryRegisterValueIsReachable := by
  intro c b
  refine ⟨firstWord c b, secondWord c b, (run_conversions c [firstWord c b, secondWord c b] 0 []).trans ?_⟩
  rw [runFinal, runFinal, runFinal, composite_secondWord_firstWord]

/-! ### The motion of one axis under the producer's duty -/

theorem flags_of_stepCommand {c : Config} {a : Axis} {w : Byte} {dir : Bool} (h : stepCommand c a w = some dir) :
    stepFlag c w a = true ∧ dirFlag c w a = dir := by
  unfold stepCommand at h
  split at h
  · next hstep => exact ⟨hstep, Option.some.inj h⟩
  · cases h

theorem eq_nil_of_deliversSteps {c : Config} {a : Axis} {calls : List Byte} (h : deliversSteps c a [] calls) : calls = [] :=
  List.map_eq_nil_iff.1 h

/-- The first call delivers the first intended step, the other calls deliver the others. -/
theorem deliversSteps_cons {c : Config} {a : Axis} {dir : Bool} {intended : List Bool} {calls : List Byte}
    (h : deliversSteps c a (dir :: intended) calls) :
    ∃ w ws, calls = w :: ws ∧ stepCommand c a w = some dir ∧ deliversSteps c a intended ws :=
  List.map_eq_cons_iff.1 h

/-- A conversion that delivers a step moves the axis by one place in the step's direction. -/
theorem axIndex_composite_of_stepCommand {c : Config} {a : Axis} {w : Byte} {dir : Bool} (cur : Byte)
    (h : stepCommand c a w = some dir) : axIndex c (composite c w cur) a = axIndex c cur a + stepPlaces dir := by
  obtain ⟨hstep, hdir⟩ := flags_of_stepCommand h
  rw [axIndex, axPhase_composite, axNext_of_step _ ((bit_cmdField_one c w a).trans hstep), bit_cmdField_zero, hdir,
    inverse_forward, axIndex]

/-- A conversion that delivers a step changes the phase. -/
theorem axPhase_composite_ne_of_stepCommand {c : Config} {a : Axis} {w : Byte} {dir : Bool} (cur : Byte)
    (h : stepCommand c a w = some dir) : axPhase c (composite c w cur) a ≠ axPhase c cur a := by
  rw [axPhase_composite]
  exact (axNext_differInOneBit _ ((bit_cmdField_one c w a).trans (flags_of_stepCommand h).1)).ne

/-- One place on the 2-bit index is one place modulo 4 on the integers. -/
theorem indexInt_add_stepPlaces (i : Index) (dir : Bool) :
    indexInt (i + stepPlaces dir) = (indexInt i + if dir then 1 else -1) % 4 := by
  obtain rfl | rfl | rfl | rfl := twoBit_cases i <;> cases dir <;> rfl

theorem position_composite_of_stepCommand {c : Config} {a : Axis} {w : Byte} {dir : Bool} (cur : Byte)
    (h : stepCommand c a w = some dir) :
    position c (composite c w cur) a = (position c cur a + if dir then 1 else -1) % 4 := by
  rw [position, axIndex_composite_of_stepCommand cur h, indexInt_add_stepPlaces, position]

/-- A position is its own residue modulo 4. -/
theorem position_emod (c : Config) (cur : Byte) (a : Axis) : position c cur a % 4 = position c cur a := by
  obtain ⟨h0, h3⟩ := indexInt_bounds (axIndex c cur a)
  exact Int.emod_eq_of_lt h0 (Int.lt_of_le_of_lt h3 (by decide))

/-- Settles O53: by induction on the intended steps, one call and one place for each. -/
theorem deliveredStepsMoveTheAxis : Obligations.DeliveredStepsMoveTheAxis := by
  intro c a intended
  induction intended with
  | nil =>
    intro calls cur h
    rw [eq_nil_of_deliversSteps h, runFinal, netPlaces, add_zero, position_emod]
  | cons dir intended ih =>
    intro calls cur h
    obtain ⟨w, ws, rfl, hw, hws⟩ := deliversSteps_cons h
    rw [runFinal, ih ws _ hws, position_composite_of_stepCommand cur hw, netPlaces, Int.emod_add_emod, add_assoc]

/-- Settles O54: by induction on the intended steps, one call and one change of the phase for each. -/
theorem onePhaseAdvancePerIntendedStep : Obligations.OnePhaseAdvancePerIntendedStep := by
  intro c a intended
  induction intended with
  | nil =>
    intro calls cur h
    rw [eq_nil_of_deliversSteps h]
    rfl
  | cons dir intended ih =>
    intro calls cur h
    obtain ⟨w, ws, rfl, hw, hws⟩ := deliversSteps_cons h
    rw [phaseAdvances, if_neg (axPhase_composite_ne_of_stepCommand cur hw), ih ws _ hws, List.length_cons, add_comm]

/-- Settles O55: the first two calls of R113 differ; a table-order step from phase 2 wraps to phase 0, where an idle call
ends too. -/
theorem oneOutputDoesNotTellTheInput : Obligations.OneOutputDoesNotTellTheInput := by
  refine ⟨⟨28, 0, ?_⟩, fun c a w w' s hcmd hphase hidle => ?_⟩
  · rw [composite_28_0, composite_28_28]
    decide
  · rw [axPhase_composite_idle s hidle, axPhase_composite, hcmd, hphase]
    rfl

/-! ### Several converters -/

theorem nextOrSame_of_step {s t : State} (h : step s = .next t) : nextOrSame s = t := by
  rw [nextOrSame, h]

/-- Settles O56: the event modifies one entry of the list, by that entry's own step. -/
theorem instancesAreIndependent : Obligations.InstancesAreIndependent := by
  intro bank k
  refine ⟨List.length_modify nextOrSame bank k, fun j hj => ?_, fun s t hs hstep => ?_⟩
  · exact List.getElem?_modify_ne nextOrSame bank hj.symm
  · rw [stepInstance, List.getElem?_modify_eq, hs, Option.map_eq_map, Option.map_some, nextOrSame_of_step hstep]

end Sys2Proof.Machine
end
